-- ==== Sys2Proof/Word.lean ====
section
/-!
DEFINITION. The two word types of the machine (spec/10_state.md R10, spec/20_memory.md R41): a byte is a `u8`, an
address or a word is a `u16`. Everything computed on them that a rule of the spec states (halves of a word, extensions,
bits) is in `Sys2Proof/Machine/Bits.lean`.
-/
namespace Sys2Proof

/-- A `u8` of the spec (R5): a data value, a register, one byte of memory. -/
abbrev Byte := BitVec 8

/-- A `u16` of the spec (R5): an address or a word. -/
abbrev Word := BitVec 16

end Sys2Proof
end

