-- ==== Sys2Proof/Machine/Bits.lean ====
section
/-!
DEFINITION. The bit-field, extension and byte-order helpers of spec/00_scope.md R5 and R6.
-/
namespace Sys2Proof.Machine

/-- `lo(w)` of R5: bits 7 to 0. -/
def lo (w : Word) : Byte := w.setWidth 8

/-- `hi(w)` of R5: bits 15 to 8. -/
def hi (w : Word) : Byte := (w >>> 8).setWidth 8

/-- `h : l` of R5: the word with high byte `h` and low byte `l`. -/
def join (h l : Byte) : Word := (h.setWidth 16 <<< 8) ||| l.setWidth 16

/-- `zext_16(b)` of R6. -/
def zext (b : Byte) : Word := b.setWidth 16

/-- `sext_16(b)` of R6. -/
def sext (b : Byte) : Word := b.signExtend 16

end Sys2Proof.Machine
end

