-- ==== Sys2Proof/Config.lean ====
section
/-!
DEFINITION. The fixed parameters of the machine (spec/00_scope.md R4). The spec draws no free value anywhere
(spec/93_implementation_defined.md, Part 1), so every parameter here has a value. The session constants `BUS`,
`MIRRORING`, `CHR` and `PRG` are plain data in `State.session`, and `META` is the table of `Sys2Proof/Decode.lean`.
-/
namespace Sys2Proof.Config

/-- `STACK_BASE` (R4, D6): the first address of the stack page. -/
def stackBase : Word := 0x0100#16

/-- The NMI vector (spec/20_memory.md R49). -/
def nmiVector : Word := 0xFFFA#16

/-- The reset vector (R49). -/
def resetVector : Word := 0xFFFC#16

/-- The vector IRQ and `BRK` share (R49). -/
def irqVector : Word := 0xFFFE#16

/-- `PPU_ADDR_MASK` (R4, D20): the valid address ceiling of the PPU map. -/
def ppuAddrMask : Word := 0x3FFF#16

/-- `INCREMENT_BIT` (R4, D22): the control-register bit that selects the step. -/
def incrementBit : Nat := 2

/-- `VRAM_SIZE` (R4). -/
def vramSize : Nat := 2048

/-- `PALETTE_SIZE` (R4). -/
def paletteSize : Nat := 32

/-- `OAM_SIZE` (R4). -/
def oamSize : Nat := 256

/-- The size of `CHR` (R4). -/
def chrSize : Nat := 8192

/-- RAM behind `FlatBus` (spec/20_memory.md R55). -/
def flatRamSize : Nat := 65536

/-- RAM behind `NesBus` (R56). -/
def nesRamSize : Nat := 2048

/-- `TRACE_PAD` (R4): the width the left part of a trace line is padded to. -/
def tracePad : Nat := 47

/-- `UNKNOWN_MNEMONIC` (R4, D30): the placeholder of the tracer; an OPEN parameter at its default (log entry 13). -/
def unknownMnemonic : List Char := ['?', '?', '?']

/-- `ACC_MARKER` (R4, D31): what the tracer prints for an accumulator operand. -/
def accMarker : List Char := ['A']

end Sys2Proof.Config
end

