-- ==== Sys2Proof/Machine/State.lean ====
section
/-!
DEFINITION. The state of the machine as plain data (spec/10_state.md), the reasons a step can stop, and the state after
reset (spec/70_reset_and_hazards.md R340).
-/
namespace Sys2Proof.Machine

/-- A memory: `(address, byte)` cells, addresses strictly rising, no cell holding what an unlisted address reads as. Its
operations and its canonical form are in `Sys2Proof/Machine/Memory.lean`. -/
abbrev Memory := List Host.Cell

/-- The general registers that are one byte wide (R10). -/
inductive Reg where
  | a | x | y | sp
  deriving DecidableEq, Repr

/-- The named bits of the status register `P`, in bit order (R16). -/
inductive Flag where
  | carry | zero | interruptDisable | decimal | brk | unused | overflow | negative
  deriving DecidableEq, Repr

/-- The CPU core: exactly six registers (R10) and the hidden bit `nmi_pending` (R19). `p` is the status register as its
eight stored bits (R16). -/
structure Cpu where
  a : Byte
  x : Byte
  y : Byte
  sp : Byte
  pc : Word
  p : Byte
  nmiPending : Bool
  deriving DecidableEq, Repr

/-- The PPU register file and VRAM access controller (R20): the address latch with its toggle (R21), the control register
(R22), the read buffer (R23), VRAM (R24), the palette (R25) and OAM (R27). -/
structure Ppu where
  addr : Word
  hiNext : Bool
  ctrl : Byte
  buf : Byte
  vram : Memory
  palette : Memory
  oam : Memory
  deriving DecidableEq, Repr

/-- The reference maps of the bus (spec/20_memory.md R55, R56). -/
inductive BusKind where
  | flat | nes
  deriving DecidableEq, Repr

/-- `MIRRORING` (spec/10_state.md R26, spec/48_ppu_vram_controller.md R283). -/
inductive Mirroring where
  | horizontal | vertical
  deriving DecidableEq, Repr

/-- The two sizes of `PRG` (spec/20_memory.md R56). -/
inductive PrgSize where
  | kib16 | kib32
  deriving DecidableEq, Repr

/-- The session constants (spec/10_state.md R26, R29): the bus, the mirroring, the pattern bytes `CHR` and the cartridge
program bytes `PRG`. They are data of the state so that a state is the whole machine; no step writes them. -/
structure Session where
  bus : BusKind
  mirroring : Mirroring
  chr : Memory
  prgSize : PrgSize
  prg : Memory
  deriving DecidableEq, Repr

/-- What the host drives at one instruction boundary: a reset request (spec/70_reset_and_hazards.md R340, R342), an edge
on `NMI` since the previous boundary, the level of `IRQ` (spec/60_exceptions.md R314 to R316). -/
structure Boundary where
  reset : Bool
  nmi : Bool
  irq : Bool
  deriving DecidableEq, Repr

/-- A boundary at which nothing is driven: the default of R314. -/
def Boundary.idle : Boundary := { reset := false, nmi := false, irq := false }

/-- The machine: CPU, PPU block, the RAM behind the bus, the session constants, and what the host drives at the coming
boundaries, the next one first; past the end of the list nothing is driven (log entry 4, DESIGN CHOICE). -/
structure State where
  cpu : Cpu
  ppu : Ppu
  ram : Memory
  session : Session
  inputs : List Boundary
  deriving DecidableEq, Repr

/-- The faults of spec/60_exceptions.md R310 and R311, the only ones (R312). Each records what the rule records, and the
state it leaves to the host (log entry 6). -/
inductive Fault where
  /-- `InvalidOpcode(pc, byte)` (R310). Raised by the fetch, when the byte at `PC` has no metadata entry. Safe: the spec
  names the fault, and `left` is the state before the step but for the device effect of the one fetch and the
  boundary that passed. -/
  | invalidOpcode (pc : Word) (byte : Byte) (left : State)
  /-- `InvalidAddressSpace(a)` (R311). Raised by a read or a write of the PPU data port while the latch holds a reserved
  address, whichever bus access of a step makes it. Safe: the spec names the fault; in `left` the PPU block is as
  before the access and the CPU as at the start of the step. -/
  | invalidAddressSpace (a : Word) (left : State)
  deriving DecidableEq, Repr

/-- The refusals (spec/00_scope.md R8, spec/60_exceptions.md R313): the spec gives the situation no meaning. -/
inductive Refusal where
  /-- Raised by an arm of `exec` without a meaning. Safe: nothing is claimed of such an instruction. -/
  | notModelled (mnemonic : String)
  /-- Raised by a read of the control or the address port, which are write-only (spec/20_memory.md R56). Safe: the spec
  refuses the read. -/
  | writeOnlyPort (a : Word)
  /-- Raised by an access to a PPU register that is not in scope (R56, `a & 7` in 1 to 5). Safe: the spec refuses it. -/
  | ppuRegister (a : Word)
  /-- Raised by an access to 0x4000 to 0x7FFF under `NesBus` (R56). Safe: the spec refuses it. -/
  | unmapped (a : Word)
  /-- Raised by a write to `PRG` under `NesBus` (R56). Safe: the spec refuses it. -/
  | readOnly (a : Word)
  /-- Raised by the construction of a session with FourScreen mirroring (spec/92_eei_decisions.md D27). Safe: the spec
  refuses the session. -/
  | fourScreen
  deriving DecidableEq, Repr

/-- The CPU after reset (R340), its `PC` the word read through the reset vector. -/
def Cpu.atReset (pc : Word) : Cpu :=
  { a := 0x00#8, x := 0x00#8, y := 0x00#8, sp := 0xFD#8, pc := pc, p := 0x24#8, nmiPending := false }

/-- The PPU block after reset (R340). -/
def Ppu.atReset : Ppu :=
  { addr := 0x0000#16, hiNext := true, ctrl := 0x00#8, buf := 0x00#8, vram := [], palette := [], oam := [] }

/-- The session of `State.reset`: `NesBus` with an empty cartridge of 32768 program bytes and Horizontal mirroring
(log entry 2, DESIGN CHOICE; the statements hold for every session). -/
def Session.empty : Session :=
  { bus := .nes, mirroring := .horizontal, chr := [], prgSize := .kib32, prg := [] }

/-- The machine right after reset (R340): the reset vector of the empty cartridge reads 0x0000. -/
def State.reset : State :=
  { cpu := Cpu.atReset 0x0000#16, ppu := Ppu.atReset, ram := [], session := Session.empty, inputs := [] }

end Sys2Proof.Machine
end

