-- ==== Sys2Proof/Machine/Flags.lean ====
section
/-!
DEFINITION. The status register's bits and every flag computation of the spec (spec/10_state.md R16 to R18,
spec/43_arithmetic_logic.md, spec/44_shift_inc_dec.md). A computation takes the byte `p` of the status register and
answers the new byte; a bit it does not name is unchanged.
-/
namespace Sys2Proof.Machine

/-- The mask of a flag (R16). -/
def Flag.mask (f : Flag) : Byte :=
  match f with
  | .carry => 0x01#8
  | .zero => 0x02#8
  | .interruptDisable => 0x04#8
  | .decimal => 0x08#8
  | .brk => 0x10#8
  | .unused => 0x20#8
  | .overflow => 0x40#8
  | .negative => 0x80#8

/-- Whether a flag is set in the status byte `p`. -/
def testFlag (p : Byte) (f : Flag) : Bool := p &&& f.mask != 0#8

/-- The status byte with one flag set to `v`. -/
def putFlag (p : Byte) (f : Flag) (v : Bool) : Byte := if v then p ||| f.mask else p &&& ~~~f.mask

/-- Bit 7 of a byte, `v[7]`. -/
def bit7 (v : Byte) : Bool := v.getLsbD 7

/-- Bit 6 of a byte, `v[6]`. -/
def bit6 (v : Byte) : Bool := v.getLsbD 6

/-- Bit 0 of a byte, `v[0]`. -/
def bit0 (v : Byte) : Bool := v.getLsbD 0

/-- `SetZN(v)` (R150). -/
def setZN (v p : Byte) : Byte := putFlag (putFlag p .zero (v == 0#8)) .negative (bit7 v)

/-- The exact sum of `ADC` (R152): a natural number, 0 to 511. -/
def adcSum (a m p : Byte) : Nat := a.toNat + m.toNat + (testFlag p .carry).toNat

/-- The result byte of `ADC` (R152). -/
def adcResult (a m p : Byte) : Byte := BitVec.ofNat 8 (adcSum a m p)

/-- Signed overflow of `ADC` (R152): both inputs have one sign and the result has the other. -/
def adcOverflow (a m p : Byte) : Bool :=
  ((a ^^^ adcResult a m p) &&& (m ^^^ adcResult a m p) &&& 0x80#8) != 0#8

/-- The status byte after `ADC` (R152): C, V, Z, N. The decimal flag plays no part (D4). -/
def adcStatus (a m p : Byte) : Byte :=
  setZN (adcResult a m p)
    (putFlag (putFlag p .carry (decide (255 < adcSum a m p))) .overflow (adcOverflow a m p))

/-- The status byte after a compare of register value `r` with `m` (R157 to R159): C, Z, N. -/
def compareStatus (r m p : Byte) : Byte :=
  putFlag (putFlag (putFlag p .carry (decide (m.toNat ≤ r.toNat))) .zero (r == m)) .negative (bit7 (r - m))

/-- The status byte after `BIT` (R160): Z, N, V. -/
def bitStatus (a m p : Byte) : Byte :=
  putFlag (putFlag (putFlag p .zero ((a &&& m) == 0#8)) .negative (bit7 m)) .overflow (bit6 m)

/-- What a one-operand function of spec/44_shift_inc_dec.md answers: the result byte and the status byte. -/
abbrev Unary := Byte → Byte → Byte × Byte

/-- `ASL` (R171). -/
def aslOp (m p : Byte) : Byte × Byte :=
  let r := m <<< 1
  (r, setZN r (putFlag p .carry (bit7 m)))

/-- `LSR` (R172). -/
def lsrOp (m p : Byte) : Byte × Byte :=
  let r := m >>> 1
  (r, setZN r (putFlag p .carry (bit0 m)))

/-- `ROL` (R173): the old carry enters bit 0. -/
def rolOp (m p : Byte) : Byte × Byte :=
  let r := (m <<< 1) ||| (if testFlag p .carry then 0x01#8 else 0x00#8)
  (r, setZN r (putFlag p .carry (bit7 m)))

/-- `ROR` (R174): the old carry enters bit 7. -/
def rorOp (m p : Byte) : Byte × Byte :=
  let r := (m >>> 1) ||| (if testFlag p .carry then 0x80#8 else 0x00#8)
  (r, setZN r (putFlag p .carry (bit0 m)))

/-- `INC`, `INX`, `INY` (R175, R177, R178). -/
def incOp (m p : Byte) : Byte × Byte :=
  let r := m + 1#8
  (r, setZN r p)

/-- `DEC`, `DEX`, `DEY` (R176, R179, R180). -/
def decOp (m p : Byte) : Byte × Byte :=
  let r := m - 1#8
  (r, setZN r p)

/-- The copy of `P` that `PHP` and `BRK` push: `P | 0x30` (spec/46_stack_flags_system.md R213). -/
def pushedBySoftware (p : Byte) : Byte := p ||| 0x30#8

/-- The copy of `P` an interrupt pushes: `(P | 0x20) & 0xEF` (spec/60_exceptions.md R318). -/
def pushedByInterrupt (p : Byte) : Byte := (p ||| 0x20#8) &&& 0xEF#8

/-- What `PLP` and `RTI` load: `(p & 0xEF) | 0x20` (R215, spec/45_control_flow.md R194). -/
def pulledStatus (p : Byte) : Byte := (p &&& 0xEF#8) ||| 0x20#8

end Sys2Proof.Machine
end

