-- ==== Sys2Proof/Machine/Memory.lean ====
section
/-!
DEFINITION. The operations of a memory held as a list of cells in one canonical form.
-/
namespace Sys2Proof.Machine

/-- What an unlisted address reads as. RAM starts at 0x00 (spec/20_memory.md R55, R56), VRAM, palette and OAM are 0x00 at
reset (spec/70_reset_and_hazards.md R340); for `CHR` and `PRG` see log entry 11. -/
def Memory.unlisted : Byte := 0x00#8

/-- The byte of a memory at an address. -/
def Memory.read (m : Memory) (a : Nat) : Byte :=
  match m with
  | [] => Memory.unlisted
  | (k, b) :: rest => if k = a then b else Memory.read rest a

/-- Puts a cell before `rest`, unless its byte is what an unlisted address reads as. -/
def Memory.putCell (a : Nat) (v : Byte) (rest : Memory) : Memory :=
  if v = Memory.unlisted then rest else (a, v) :: rest

/-- The memory with byte `v` at address `a`, in canonical form when `m` is. -/
def Memory.write (m : Memory) (a : Nat) (v : Byte) : Memory :=
  match m with
  | [] => Memory.putCell a v []
  | (k, b) :: rest =>
    if a < k then Memory.putCell a v ((k, b) :: rest)
    else if a = k then Memory.putCell a v rest
    else (k, b) :: Memory.write rest a v

/-- The cells rise strictly from `low` on and none holds the unlisted byte. -/
def Memory.wfFrom (low : Nat) (m : Memory) : Bool :=
  match m with
  | [] => true
  | (k, b) :: rest => decide (low ≤ k) && (b != Memory.unlisted) && Memory.wfFrom (k + 1) rest

/-- The canonical form: addresses strictly rising, no cell equal to what an unlisted address reads as. -/
def Memory.wf (m : Memory) : Bool := Memory.wfFrom 0 m

/-- Every cell lies below `size`. -/
def Memory.within (size : Nat) (m : Memory) : Bool := m.all (fun cell => decide (cell.1 < size))

/-- The bytes of an image at `base` and up, written over `m`. -/
def Memory.load (m : Memory) (base : Nat) (image : List Byte) : Memory :=
  match image with
  | [] => m
  | b :: rest => Memory.load (Memory.write m base b) (base + 1) rest

end Sys2Proof.Machine
end

