-- ==== Sys2Proof/Machine/Ports.lean ====
section
/-!
DEFINITION. The PPU register file and VRAM access controller (spec/48_ppu_vram_controller.md): its port operations on
the PPU block alone. `none` is the condition `InvalidAddressSpace` at the latch value.
-/
namespace Sys2Proof.Machine

/-- R272: bits 15 and 14 cleared. -/
def maskLatch (w : Word) : Word := w &&& Config.ppuAddrMask

/-- `write_address_port` (R271): high byte, then low byte, masked after each write; the toggle turns. -/
def writeAddressPort (b : Byte) (u : Ppu) : Ppu :=
  let value := if u.hiNext then join b (lo u.addr) else join (hi u.addr) b
  { u with addr := maskLatch value, hiNext := !u.hiNext }

/-- `reset_address_toggle` (R275), a host operation: no bus address triggers it. -/
def resetAddressToggle (u : Ppu) : Ppu := { u with hiNext := true }

/-- `write_control_port` (R273). -/
def writeControlPort (b : Byte) (u : Ppu) : Ppu := { u with ctrl := b }

/-- The step of R274: 32 when the designated control bit is set, else 1. -/
def vramStep (u : Ppu) : Word := if u.ctrl.getLsbD Config.incrementBit then 32#16 else 1#16

/-- `increment_vram_address` (R274). -/
def incrementVramAddress (u : Ppu) : Ppu := { u with addr := maskLatch (u.addr + vramStep u) }

/-- The index arithmetic of R277 to R281 for an address of the nametable region. -/
def mirrorIndex (mirroring : Mirroring) (addr : Word) : Nat :=
  let i := (addr &&& 0x0FFF#16).toNat
  let t := i / 0x400
  match mirroring with
  | .vertical => if 2 ≤ t then i - 0x800 else i
  | .horizontal => if t = 0 then i else if t = 1 ∨ t = 2 then i - 0x400 else i - 0x800

/-- `mirror_nametable_address` (R276, R282): defined on 0x2000 to 0x3EFF only (D42). -/
def mirrorNametableAddress (mirroring : Mirroring) (addr : Word) : Option Nat :=
  if 0x2000#16 ≤ addr ∧ addr ≤ 0x3EFF#16 then some (mirrorIndex mirroring addr) else none

/-- The regions of the PPU address space (spec/20_memory.md R50). -/
inductive PpuRegion where
  | pattern | nametable | reserved | palette | beyond
  deriving DecidableEq, Repr

/-- The region of a PPU address (R50, R284, R289). -/
def ppuRegion (addr : Word) : PpuRegion :=
  if addr ≤ 0x1FFF#16 then .pattern
  else if addr ≤ 0x2FFF#16 then .nametable
  else if addr ≤ 0x3EFF#16 then .reserved
  else if addr ≤ 0x3FFF#16 then .palette
  else .beyond

/-- The palette index of R288: `(a - 0x3F00) mod 32`. -/
def paletteIndex (addr : Word) : Nat := (addr - 0x3F00#16).toNat % Config.paletteSize

/-- The byte of the cell a PPU address reaches, for an address outside the reserved range: `CHR`, VRAM through the
mirroring, or the palette. -/
def ppuCell (k : Session) (u : Ppu) (addr : Word) : Byte :=
  match ppuRegion addr with
  | .pattern => Memory.read k.chr addr.toNat
  | .nametable => Memory.read u.vram (mirrorIndex k.mirroring addr)
  | .palette => Memory.read u.palette (paletteIndex addr)
  | .reserved => Memory.unlisted
  | .beyond => Memory.unlisted

/-- `read_data_port` (R284 to R289): dispatch on the latch before the increment; pattern and nametable reads answer the old
buffer and load it, palette reads answer the cell and leave the buffer (D47); a reserved latch changes nothing. -/
def readDataPort (k : Session) (u : Ppu) : Option (Byte × Ppu) :=
  match ppuRegion u.addr with
  | .pattern => some (u.buf, { incrementVramAddress u with buf := ppuCell k u u.addr })
  | .nametable => some (u.buf, { incrementVramAddress u with buf := ppuCell k u u.addr })
  | .palette => some (ppuCell k u u.addr, incrementVramAddress u)
  | .reserved => none
  | .beyond => none

/-- `write_data_port` (R291): a pattern write is dropped, a nametable or palette write is stored; then the latch moves. -/
def writeDataPort (k : Session) (b : Byte) (u : Ppu) : Option Ppu :=
  match ppuRegion u.addr with
  | .pattern => some (incrementVramAddress u)
  | .nametable =>
    some (incrementVramAddress { u with vram := Memory.write u.vram (mirrorIndex k.mirroring u.addr) b })
  | .palette => some (incrementVramAddress { u with palette := Memory.write u.palette (paletteIndex u.addr) b })
  | .reserved => none
  | .beyond => none

/-- Peek of the data port (R290): what a read would return, with 0x00 where it would fault. -/
def peekDataPort (k : Session) (u : Ppu) : Byte :=
  match ppuRegion u.addr with
  | .pattern => u.buf
  | .nametable => u.buf
  | .palette => ppuCell k u u.addr
  | .reserved => 0x00#8
  | .beyond => 0x00#8

end Sys2Proof.Machine
end

