-- ==== Sys2Proof/Machine/Ops.lean ====
section
/-!
DEFINITION. The named operations every meaning is written with: sequencing, registers, the bus (spec/20_memory.md), the
stack (spec/46_stack_flags_system.md R210, R211), interrupt entry and return (spec/60_exceptions.md R318, R323), reset
(spec/70_reset_and_hazards.md R340).
-/
namespace Sys2Proof.Machine

/-- The three outcomes, at any type of result. -/
abbrev Res (α : Type) := Host.Outcome α Fault Refusal

/-- Runs `k` on the result of `o`; a fault or a refusal of `o` is the outcome of the whole (spec/60_exceptions.md R317). -/
def chain {α β : Type} (o : Res α) (k : α → Res β) : Res β :=
  match o with
  | .next v => k v
  | .fault f => .fault f
  | .refused r => .refused r

/-- A step that faulted is abandoned: the CPU registers in the state left are those of the start of the step, device
effects of completed accesses stay (spec/41_execution_loop.md R116). -/
def abandon (cpu : Cpu) (o : Res State) : Res State :=
  match o with
  | .next t => .next t
  | .fault (.invalidOpcode pc byte t) => .fault (.invalidOpcode pc byte { t with cpu := cpu })
  | .fault (.invalidAddressSpace a t) => .fault (.invalidAddressSpace a { t with cpu := cpu })
  | .refused r => .refused r

/-! ## Registers -/

/-- The value of a register. -/
def State.reg (r : Reg) (s : State) : Byte :=
  match r with
  | .a => s.cpu.a
  | .x => s.cpu.x
  | .y => s.cpu.y
  | .sp => s.cpu.sp

/-- The state with a register written. -/
def State.setReg (r : Reg) (v : Byte) (s : State) : State :=
  match r with
  | .a => { s with cpu := { s.cpu with a := v } }
  | .x => { s with cpu := { s.cpu with x := v } }
  | .y => { s with cpu := { s.cpu with y := v } }
  | .sp => { s with cpu := { s.cpu with sp := v } }

/-- The state with the status register written whole. -/
def State.setP (p : Byte) (s : State) : State := { s with cpu := { s.cpu with p := p } }

/-- The state with `PC` written: a control transfer (R117). -/
def State.setPc (w : Word) (s : State) : State := { s with cpu := { s.cpu with pc := w } }

/-- The state with the latch `nmi_pending` written (spec/60_exceptions.md R315). -/
def State.setNmiPending (v : Bool) (s : State) : State := { s with cpu := { s.cpu with nmiPending := v } }

/-- The state with its PPU block replaced. -/
def State.setPpu (u : Ppu) (s : State) : State := { s with ppu := u }

/-- The state with its RAM replaced. -/
def State.setRam (m : Memory) (s : State) : State := { s with ram := m }

/-- One flag of the status register. -/
def State.flag (f : Flag) (s : State) : Bool := testFlag s.cpu.p f

/-- The state with one flag of the status register written. -/
def State.setFlag (f : Flag) (v : Bool) (s : State) : State := s.setP (putFlag s.cpu.p f v)

/-- `PC` advanced by the instruction's length (R117), mod 65536. -/
def State.advance (len : Nat) (s : State) : State := s.setPc (s.cpu.pc + BitVec.ofNat 16 len)

/-! ## The bus -/

/-- The number of bytes of `PRG`. -/
def PrgSize.bytes (k : PrgSize) : Nat :=
  match k with
  | .kib16 => 16384
  | .kib32 => 32768

/-- What a CPU address reaches on the bus. -/
inductive Target where
  | ram (cell : Nat)
  | prg (cell : Nat)
  | controlPort
  | addressPort
  | dataPort
  | ppuRegister
  | unmapped
  deriving DecidableEq, Repr

/-- The PPU port of an address in 0x2000 to 0x3FFF under `NesBus`: by `a & 7` (R56). -/
def nesPort (a : Word) : Target :=
  if a &&& 7#16 = 0#16 then .controlPort
  else if a &&& 7#16 = 6#16 then .addressPort
  else if a &&& 7#16 = 7#16 then .dataPort
  else .ppuRegister

/-- The routing of the bus: `FlatBus` (R55) or `NesBus` (R56). -/
def route (k : Session) (a : Word) : Target :=
  match k.bus with
  | .flat => .ram a.toNat
  | .nes =>
    if a < 0x2000#16 then .ram (a.toNat % Config.nesRamSize)
    else if a < 0x4000#16 then nesPort a
    else if a < 0x8000#16 then .unmapped
    else .prg ((a.toNat - 0x8000) % k.prgSize.bytes)

/-- `MemRead(addr, 1)` (R41, R55, R56): the byte, and the state with the device's side effects. -/
def memRead (a : Word) (s : State) : Res (Byte × State) :=
  match route s.session a with
  | .ram cell => .next (Memory.read s.ram cell, s)
  | .prg cell => .next (Memory.read s.session.prg cell, s)
  | .dataPort =>
    match readDataPort s.session s.ppu with
    | some r => .next (r.1, s.setPpu r.2)
    | none => .fault (.invalidAddressSpace s.ppu.addr s)
  | .controlPort => .refused (.writeOnlyPort a)
  | .addressPort => .refused (.writeOnlyPort a)
  | .ppuRegister => .refused (.ppuRegister a)
  | .unmapped => .refused (.unmapped a)

/-- `MemWrite(addr, 1, v)` (R41, R55, R56). -/
def memWrite (a : Word) (v : Byte) (s : State) : Res State :=
  match route s.session a with
  | .ram cell => .next (s.setRam (Memory.write s.ram cell v))
  | .prg _ => .refused (.readOnly a)
  | .dataPort =>
    match writeDataPort s.session v s.ppu with
    | some u => .next (s.setPpu u)
    | none => .fault (.invalidAddressSpace s.ppu.addr s)
  | .controlPort => .next (s.setPpu (writeControlPort v s.ppu))
  | .addressPort => .next (s.setPpu (writeAddressPort v s.ppu))
  | .ppuRegister => .refused (.ppuRegister a)
  | .unmapped => .refused (.unmapped a)

/-- `Peek(addr)` (R46): total, with no side effect; 0x00 where a read is refused or would fault (D29). -/
def peek (s : State) (a : Word) : Byte :=
  match route s.session a with
  | .ram cell => Memory.read s.ram cell
  | .prg cell => Memory.read s.session.prg cell
  | .dataPort => peekDataPort s.session s.ppu
  | .controlPort => 0x00#8
  | .addressPort => 0x00#8
  | .ppuRegister => 0x00#8
  | .unmapped => 0x00#8

/-- `Peek16(addr)` (R46). -/
def peek16 (s : State) (a : Word) : Word := join (peek s (a + 1#16)) (peek s a)

/-- `MemRead16(addr)` (R43): low byte first, then the byte at `addr +16 1`. -/
def memRead16 (a : Word) (s : State) : Res (Word × State) :=
  chain (memRead a s) fun l =>
  chain (memRead (a + 1#16) l.2) fun h =>
  .next (join h.1 l.1, h.2)

/-- `MemWrite(addr, 2, v)`, the `write16` of the bus (R44): for the host, no instruction uses it. -/
def memWrite16 (a : Word) (v : Word) (s : State) : Res State :=
  chain (memWrite a (lo v) s) fun t =>
  memWrite (a + 1#16) (hi v) t

/-! ## The stack -/

/-- The stack cell `SP` points at (spec/10_state.md R14). -/
def stackAddress (sp : Byte) : Word := Config.stackBase + zext sp

/-- `Push(v)` (R210): one bus write, then the pointer moves down. -/
def push (v : Byte) (s : State) : Res State :=
  chain (memWrite (stackAddress s.cpu.sp) v s) fun t =>
  .next (t.setReg .sp (t.cpu.sp - 1#8))

/-- `Pull()` (R211): the pointer moves up, then one bus read. -/
def pull (s : State) : Res (Byte × State) :=
  memRead (stackAddress (s.cpu.sp + 1#8)) (s.setReg .sp (s.cpu.sp + 1#8))

/-- Two pushes, the high byte first (spec/20_memory.md R42). -/
def pushWord (w : Word) (s : State) : Res State :=
  chain (push (hi w) s) fun t => push (lo w) t

/-- Two pulls, the low byte first. -/
def pullWord (s : State) : Res (Word × State) :=
  chain (pull s) fun l =>
  chain (pull l.2) fun h =>
  .next (join h.1 l.1, h.2)

/-! ## Entry, return and reset -/

/-- Taking an interrupt (R318) and the software form of the same entry, `BRK` (spec/45_control_flow.md R195): push the
return address, push the given copy of `P`, set `P.I`, continue at the word in the vector. -/
def enter (ret : Word) (pushed : Byte) (vector : Word) (s : State) : Res State :=
  chain (pushWord ret s) fun s1 =>
  chain (push pushed s1) fun s2 =>
  chain (memRead16 vector (s2.setFlag .interruptDisable true)) fun r =>
  .next (r.2.setPc r.1)

/-- Return from interrupt (R194, R323): pull `P` with bits 4 and 5 forced, then `PC`, with no adjustment. -/
def returnFromInterrupt (s : State) : Res State :=
  chain (pull s) fun r =>
  chain (pullWord (r.2.setP (pulledStatus r.1))) fun q =>
  .next (q.2.setPc q.1)

/-- Taking an interrupt with `PC` the instruction not yet executed (R318). -/
def takeInterrupt (vector : Word) (s : State) : Res State :=
  enter s.cpu.pc (pushedByInterrupt s.cpu.p) vector s

/-- Taking an NMI clears the latch (R315). -/
def takeNmi (s : State) : Res State := takeInterrupt Config.nmiVector (s.setNmiPending false)

/-- Taking an IRQ (R316). -/
def takeIrq (s : State) : Res State := takeInterrupt Config.irqVector s

/-- `Reset()` (R340, R341): the registers and the PPU block take their reset values, `PC` the word in the reset vector;
memory behind the bus and the session constants are not touched. -/
def hostReset (s : State) : Res State :=
  chain (memRead16 Config.resetVector s) fun r =>
  .next { r.2 with cpu := Cpu.atReset r.1, ppu := Ppu.atReset }

/-! ## Instruction boundaries -/

/-- What a step does at a boundary (R321). -/
inductive Event where
  | reset | nmi | irq | instruction
  deriving DecidableEq, Repr

/-- What the host drives at the coming boundary; nothing past the end of the list (R314). -/
def State.boundary (s : State) : Boundary := s.inputs.headD Boundary.idle

/-- What is due at the start of a step (R314 to R316), in the priority of R321: reset, then NMI, then IRQ when `P.I` is
clear, then the instruction at `PC`. -/
def dueEvent (s : State) : Event :=
  if s.boundary.reset then .reset
  else if s.cpu.nmiPending || s.boundary.nmi then .nmi
  else if s.boundary.irq && !s.flag .interruptDisable then .irq
  else .instruction

/-- The boundary has passed: its inputs are gone. -/
def passBoundary (s : State) : State := { s with inputs := s.inputs.tail }

end Sys2Proof.Machine
end

