-- ==== Sys2Proof/Syntax.lean ====
section
/-!
DEFINITION. The syntax: mnemonics, addressing modes, operand forms, the metadata entry (spec/30_encoding.md R70, R73, R74)
and the instructions, one constructor of `Instr` per row of the opcode table (R75, R76).
-/
namespace Sys2Proof

/-- The 56 mnemonics of R76. -/
inductive Mnemonic where
  | adc | and | asl | bcc | bcs | beq | bit | bmi | bne | bpl | brk | bvc | bvs | clc
  | cld | cli | clv | cmp | cpx | cpy | dec | dex | dey | eor | inc | inx | iny | jmp
  | jsr | lda | ldx | ldy | lsr | nop | ora | pha | php | pla | plp | rol | ror | rti
  | rts | sbc | sec | sed | sei | sta | stx | sty | tax | tay | tsx | txa | txs | tya
  deriving DecidableEq, Repr

/-- The text of a mnemonic: three upper-case letters (spec/47_tracer.md R236). -/
def Mnemonic.text : Mnemonic → List Char
  | .adc => ['A', 'D', 'C']
  | .and => ['A', 'N', 'D']
  | .asl => ['A', 'S', 'L']
  | .bcc => ['B', 'C', 'C']
  | .bcs => ['B', 'C', 'S']
  | .beq => ['B', 'E', 'Q']
  | .bit => ['B', 'I', 'T']
  | .bmi => ['B', 'M', 'I']
  | .bne => ['B', 'N', 'E']
  | .bpl => ['B', 'P', 'L']
  | .brk => ['B', 'R', 'K']
  | .bvc => ['B', 'V', 'C']
  | .bvs => ['B', 'V', 'S']
  | .clc => ['C', 'L', 'C']
  | .cld => ['C', 'L', 'D']
  | .cli => ['C', 'L', 'I']
  | .clv => ['C', 'L', 'V']
  | .cmp => ['C', 'M', 'P']
  | .cpx => ['C', 'P', 'X']
  | .cpy => ['C', 'P', 'Y']
  | .dec => ['D', 'E', 'C']
  | .dex => ['D', 'E', 'X']
  | .dey => ['D', 'E', 'Y']
  | .eor => ['E', 'O', 'R']
  | .inc => ['I', 'N', 'C']
  | .inx => ['I', 'N', 'X']
  | .iny => ['I', 'N', 'Y']
  | .jmp => ['J', 'M', 'P']
  | .jsr => ['J', 'S', 'R']
  | .lda => ['L', 'D', 'A']
  | .ldx => ['L', 'D', 'X']
  | .ldy => ['L', 'D', 'Y']
  | .lsr => ['L', 'S', 'R']
  | .nop => ['N', 'O', 'P']
  | .ora => ['O', 'R', 'A']
  | .pha => ['P', 'H', 'A']
  | .php => ['P', 'H', 'P']
  | .pla => ['P', 'L', 'A']
  | .plp => ['P', 'L', 'P']
  | .rol => ['R', 'O', 'L']
  | .ror => ['R', 'O', 'R']
  | .rti => ['R', 'T', 'I']
  | .rts => ['R', 'T', 'S']
  | .sbc => ['S', 'B', 'C']
  | .sec => ['S', 'E', 'C']
  | .sed => ['S', 'E', 'D']
  | .sei => ['S', 'E', 'I']
  | .sta => ['S', 'T', 'A']
  | .stx => ['S', 'T', 'X']
  | .sty => ['S', 'T', 'Y']
  | .tax => ['T', 'A', 'X']
  | .tay => ['T', 'A', 'Y']
  | .tsx => ['T', 'S', 'X']
  | .txa => ['T', 'X', 'A']
  | .txs => ['T', 'X', 'S']
  | .tya => ['T', 'Y', 'A']

/-- The closed set of ten addressing-mode variants (R74). -/
inductive Mode where
  | immediate | zeroPage | zeroPageX | zeroPageY | absolute | absoluteX | absoluteY | indirectX | indirectY | none
  deriving DecidableEq, Repr

/-- The operand forms this spec tells apart (R72, R74): for the mode `None`, what the length and the opcode decide. -/
inductive OperandForm where
  | imp | acc | imm | zp | zpx | zpy | abs | abx | aby | izx | izy | rel | jabs | jind
  deriving DecidableEq, Repr

/-- A metadata entry (R70): mnemonic, byte length, base cycle count, addressing mode, and the operand form of R75. The
cycle count is carried and read by no rule (spec/70_reset_and_hazards.md R352). -/
structure MetaEntry where
  mnemonic : Mnemonic
  len : Nat
  cycles : Nat
  mode : Mode
  form : OperandForm
  deriving DecidableEq, Repr

/-- The instructions: one constructor per row of the opcode table, its operand bytes as one value (R71, R72). The
comment of a constructor gives its assembler syntax (R79), its opcode byte and its rule. -/
inductive Instr where
  /-- `BRK`, 0x00, R195. -/
  | brk
  /-- `ORA ($nn,X)`, 0x01, R155. -/
  | oraIzx (b : Byte)
  /-- `ORA $nn`, 0x05, R155. -/
  | oraZp (b : Byte)
  /-- `ASL $nn`, 0x06, R171. -/
  | aslZp (b : Byte)
  /-- `PHP`, 0x08, R213. -/
  | php
  /-- `ORA #$nn`, 0x09, R155. -/
  | oraImm (b : Byte)
  /-- `ASL A`, 0x0A, R171. -/
  | aslAcc
  /-- `ORA $nnnn`, 0x0D, R155. -/
  | oraAbs (w : Word)
  /-- `ASL $nnnn`, 0x0E, R171. -/
  | aslAbs (w : Word)
  /-- `BPL $tttt`, 0x10, R197. -/
  | bpl (b : Byte)
  /-- `ORA ($nn),Y`, 0x11, R155. -/
  | oraIzy (b : Byte)
  /-- `ORA $nn,X`, 0x15, R155. -/
  | oraZpx (b : Byte)
  /-- `ASL $nn,X`, 0x16, R171. -/
  | aslZpx (b : Byte)
  /-- `CLC`, 0x18, R216. -/
  | clc
  /-- `ORA $nnnn,Y`, 0x19, R155. -/
  | oraAby (w : Word)
  /-- `ORA $nnnn,X`, 0x1D, R155. -/
  | oraAbx (w : Word)
  /-- `ASL $nnnn,X`, 0x1E, R171. -/
  | aslAbx (w : Word)
  /-- `JSR $nnnn`, 0x20, R192. -/
  | jsr (w : Word)
  /-- `AND ($nn,X)`, 0x21, R154. -/
  | andIzx (b : Byte)
  /-- `BIT $nn`, 0x24, R160. -/
  | bitZp (b : Byte)
  /-- `AND $nn`, 0x25, R154. -/
  | andZp (b : Byte)
  /-- `ROL $nn`, 0x26, R173. -/
  | rolZp (b : Byte)
  /-- `PLP`, 0x28, R215. -/
  | plp
  /-- `AND #$nn`, 0x29, R154. -/
  | andImm (b : Byte)
  /-- `ROL A`, 0x2A, R173. -/
  | rolAcc
  /-- `BIT $nnnn`, 0x2C, R160. -/
  | bitAbs (w : Word)
  /-- `AND $nnnn`, 0x2D, R154. -/
  | andAbs (w : Word)
  /-- `ROL $nnnn`, 0x2E, R173. -/
  | rolAbs (w : Word)
  /-- `BMI $tttt`, 0x30, R198. -/
  | bmi (b : Byte)
  /-- `AND ($nn),Y`, 0x31, R154. -/
  | andIzy (b : Byte)
  /-- `AND $nn,X`, 0x35, R154. -/
  | andZpx (b : Byte)
  /-- `ROL $nn,X`, 0x36, R173. -/
  | rolZpx (b : Byte)
  /-- `SEC`, 0x38, R217. -/
  | sec
  /-- `AND $nnnn,Y`, 0x39, R154. -/
  | andAby (w : Word)
  /-- `AND $nnnn,X`, 0x3D, R154. -/
  | andAbx (w : Word)
  /-- `ROL $nnnn,X`, 0x3E, R173. -/
  | rolAbx (w : Word)
  /-- `RTI`, 0x40, R194. -/
  | rti
  /-- `EOR ($nn,X)`, 0x41, R156. -/
  | eorIzx (b : Byte)
  /-- `EOR $nn`, 0x45, R156. -/
  | eorZp (b : Byte)
  /-- `LSR $nn`, 0x46, R172. -/
  | lsrZp (b : Byte)
  /-- `PHA`, 0x48, R212. -/
  | pha
  /-- `EOR #$nn`, 0x49, R156. -/
  | eorImm (b : Byte)
  /-- `LSR A`, 0x4A, R172. -/
  | lsrAcc
  /-- `JMP $nnnn`, 0x4C, R191. -/
  | jmpAbs (w : Word)
  /-- `EOR $nnnn`, 0x4D, R156. -/
  | eorAbs (w : Word)
  /-- `LSR $nnnn`, 0x4E, R172. -/
  | lsrAbs (w : Word)
  /-- `BVC $tttt`, 0x50, R199. -/
  | bvc (b : Byte)
  /-- `EOR ($nn),Y`, 0x51, R156. -/
  | eorIzy (b : Byte)
  /-- `EOR $nn,X`, 0x55, R156. -/
  | eorZpx (b : Byte)
  /-- `LSR $nn,X`, 0x56, R172. -/
  | lsrZpx (b : Byte)
  /-- `CLI`, 0x58, R218. -/
  | cli
  /-- `EOR $nnnn,Y`, 0x59, R156. -/
  | eorAby (w : Word)
  /-- `EOR $nnnn,X`, 0x5D, R156. -/
  | eorAbx (w : Word)
  /-- `LSR $nnnn,X`, 0x5E, R172. -/
  | lsrAbx (w : Word)
  /-- `RTS`, 0x60, R193. -/
  | rts
  /-- `ADC ($nn,X)`, 0x61, R152. -/
  | adcIzx (b : Byte)
  /-- `ADC $nn`, 0x65, R152. -/
  | adcZp (b : Byte)
  /-- `ROR $nn`, 0x66, R174. -/
  | rorZp (b : Byte)
  /-- `PLA`, 0x68, R214. -/
  | pla
  /-- `ADC #$nn`, 0x69, R152. -/
  | adcImm (b : Byte)
  /-- `ROR A`, 0x6A, R174. -/
  | rorAcc
  /-- `JMP ($nnnn)`, 0x6C, R205. -/
  | jmpInd (w : Word)
  /-- `ADC $nnnn`, 0x6D, R152. -/
  | adcAbs (w : Word)
  /-- `ROR $nnnn`, 0x6E, R174. -/
  | rorAbs (w : Word)
  /-- `BVS $tttt`, 0x70, R200. -/
  | bvs (b : Byte)
  /-- `ADC ($nn),Y`, 0x71, R152. -/
  | adcIzy (b : Byte)
  /-- `ADC $nn,X`, 0x75, R152. -/
  | adcZpx (b : Byte)
  /-- `ROR $nn,X`, 0x76, R174. -/
  | rorZpx (b : Byte)
  /-- `SEI`, 0x78, R219. -/
  | sei
  /-- `ADC $nnnn,Y`, 0x79, R152. -/
  | adcAby (w : Word)
  /-- `ADC $nnnn,X`, 0x7D, R152. -/
  | adcAbx (w : Word)
  /-- `ROR $nnnn,X`, 0x7E, R174. -/
  | rorAbx (w : Word)
  /-- `STA ($nn,X)`, 0x81, R134. -/
  | staIzx (b : Byte)
  /-- `STY $nn`, 0x84, R136. -/
  | styZp (b : Byte)
  /-- `STA $nn`, 0x85, R134. -/
  | staZp (b : Byte)
  /-- `STX $nn`, 0x86, R135. -/
  | stxZp (b : Byte)
  /-- `DEY`, 0x88, R180. -/
  | dey
  /-- `TXA`, 0x8A, R139. -/
  | txa
  /-- `STY $nnnn`, 0x8C, R136. -/
  | styAbs (w : Word)
  /-- `STA $nnnn`, 0x8D, R134. -/
  | staAbs (w : Word)
  /-- `STX $nnnn`, 0x8E, R135. -/
  | stxAbs (w : Word)
  /-- `BCC $tttt`, 0x90, R201. -/
  | bcc (b : Byte)
  /-- `STA ($nn),Y`, 0x91, R134. -/
  | staIzy (b : Byte)
  /-- `STY $nn,X`, 0x94, R136. -/
  | styZpx (b : Byte)
  /-- `STA $nn,X`, 0x95, R134. -/
  | staZpx (b : Byte)
  /-- `STX $nn,Y`, 0x96, R135. -/
  | stxZpy (b : Byte)
  /-- `TYA`, 0x98, R140. -/
  | tya
  /-- `STA $nnnn,Y`, 0x99, R134. -/
  | staAby (w : Word)
  /-- `TXS`, 0x9A, R142. -/
  | txs
  /-- `STA $nnnn,X`, 0x9D, R134. -/
  | staAbx (w : Word)
  /-- `LDY #$nn`, 0xA0, R133. -/
  | ldyImm (b : Byte)
  /-- `LDA ($nn,X)`, 0xA1, R131. -/
  | ldaIzx (b : Byte)
  /-- `LDX #$nn`, 0xA2, R132. -/
  | ldxImm (b : Byte)
  /-- `LDY $nn`, 0xA4, R133. -/
  | ldyZp (b : Byte)
  /-- `LDA $nn`, 0xA5, R131. -/
  | ldaZp (b : Byte)
  /-- `LDX $nn`, 0xA6, R132. -/
  | ldxZp (b : Byte)
  /-- `TAY`, 0xA8, R138. -/
  | tay
  /-- `LDA #$nn`, 0xA9, R131. -/
  | ldaImm (b : Byte)
  /-- `TAX`, 0xAA, R137. -/
  | tax
  /-- `LDY $nnnn`, 0xAC, R133. -/
  | ldyAbs (w : Word)
  /-- `LDA $nnnn`, 0xAD, R131. -/
  | ldaAbs (w : Word)
  /-- `LDX $nnnn`, 0xAE, R132. -/
  | ldxAbs (w : Word)
  /-- `BCS $tttt`, 0xB0, R202. -/
  | bcs (b : Byte)
  /-- `LDA ($nn),Y`, 0xB1, R131. -/
  | ldaIzy (b : Byte)
  /-- `LDY $nn,X`, 0xB4, R133. -/
  | ldyZpx (b : Byte)
  /-- `LDA $nn,X`, 0xB5, R131. -/
  | ldaZpx (b : Byte)
  /-- `LDX $nn,Y`, 0xB6, R132. -/
  | ldxZpy (b : Byte)
  /-- `CLV`, 0xB8, R222. -/
  | clv
  /-- `LDA $nnnn,Y`, 0xB9, R131. -/
  | ldaAby (w : Word)
  /-- `TSX`, 0xBA, R141. -/
  | tsx
  /-- `LDY $nnnn,X`, 0xBC, R133. -/
  | ldyAbx (w : Word)
  /-- `LDA $nnnn,X`, 0xBD, R131. -/
  | ldaAbx (w : Word)
  /-- `LDX $nnnn,Y`, 0xBE, R132. -/
  | ldxAby (w : Word)
  /-- `CPY #$nn`, 0xC0, R159. -/
  | cpyImm (b : Byte)
  /-- `CMP ($nn,X)`, 0xC1, R157. -/
  | cmpIzx (b : Byte)
  /-- `CPY $nn`, 0xC4, R159. -/
  | cpyZp (b : Byte)
  /-- `CMP $nn`, 0xC5, R157. -/
  | cmpZp (b : Byte)
  /-- `DEC $nn`, 0xC6, R176. -/
  | decZp (b : Byte)
  /-- `INY`, 0xC8, R178. -/
  | iny
  /-- `CMP #$nn`, 0xC9, R157. -/
  | cmpImm (b : Byte)
  /-- `DEX`, 0xCA, R179. -/
  | dex
  /-- `CPY $nnnn`, 0xCC, R159. -/
  | cpyAbs (w : Word)
  /-- `CMP $nnnn`, 0xCD, R157. -/
  | cmpAbs (w : Word)
  /-- `DEC $nnnn`, 0xCE, R176. -/
  | decAbs (w : Word)
  /-- `BNE $tttt`, 0xD0, R203. -/
  | bne (b : Byte)
  /-- `CMP ($nn),Y`, 0xD1, R157. -/
  | cmpIzy (b : Byte)
  /-- `CMP $nn,X`, 0xD5, R157. -/
  | cmpZpx (b : Byte)
  /-- `DEC $nn,X`, 0xD6, R176. -/
  | decZpx (b : Byte)
  /-- `CLD`, 0xD8, R220. -/
  | cld
  /-- `CMP $nnnn,Y`, 0xD9, R157. -/
  | cmpAby (w : Word)
  /-- `CMP $nnnn,X`, 0xDD, R157. -/
  | cmpAbx (w : Word)
  /-- `DEC $nnnn,X`, 0xDE, R176. -/
  | decAbx (w : Word)
  /-- `CPX #$nn`, 0xE0, R158. -/
  | cpxImm (b : Byte)
  /-- `SBC ($nn,X)`, 0xE1, R153. -/
  | sbcIzx (b : Byte)
  /-- `CPX $nn`, 0xE4, R158. -/
  | cpxZp (b : Byte)
  /-- `SBC $nn`, 0xE5, R153. -/
  | sbcZp (b : Byte)
  /-- `INC $nn`, 0xE6, R175. -/
  | incZp (b : Byte)
  /-- `INX`, 0xE8, R177. -/
  | inx
  /-- `SBC #$nn`, 0xE9, R153. -/
  | sbcImm (b : Byte)
  /-- `NOP`, 0xEA, R223. -/
  | nop
  /-- `CPX $nnnn`, 0xEC, R158. -/
  | cpxAbs (w : Word)
  /-- `SBC $nnnn`, 0xED, R153. -/
  | sbcAbs (w : Word)
  /-- `INC $nnnn`, 0xEE, R175. -/
  | incAbs (w : Word)
  /-- `BEQ $tttt`, 0xF0, R204. -/
  | beq (b : Byte)
  /-- `SBC ($nn),Y`, 0xF1, R153. -/
  | sbcIzy (b : Byte)
  /-- `SBC $nn,X`, 0xF5, R153. -/
  | sbcZpx (b : Byte)
  /-- `INC $nn,X`, 0xF6, R175. -/
  | incZpx (b : Byte)
  /-- `SED`, 0xF8, R221. -/
  | sed
  /-- `SBC $nnnn,Y`, 0xF9, R153. -/
  | sbcAby (w : Word)
  /-- `SBC $nnnn,X`, 0xFD, R153. -/
  | sbcAbx (w : Word)
  /-- `INC $nnnn,X`, 0xFE, R175. -/
  | incAbx (w : Word)
  deriving DecidableEq, Repr

end Sys2Proof
end

