-- ==== Sys2Proof/Machine/Operands.lean ====
section
/-!
DEFINITION. The operand forms and the effective-address resolver (spec/40_addressing.md). The operand bytes of an
instruction stand in the instruction: the fetch has read them, before anything the resolver reads (spec/20_memory.md
R61, log entry 7).
-/
namespace Sys2Proof.Machine

/-- An operand that is data in the instruction or a byte in memory (spec/30_encoding.md R72). -/
inductive Operand where
  | imm (b : Byte)
  | zp (b : Byte)
  | zpx (b : Byte)
  | zpy (b : Byte)
  | abs (w : Word)
  | abx (w : Word)
  | aby (w : Word)
  | izx (b : Byte)
  | izy (b : Byte)
  deriving DecidableEq, Repr

/-- The byte length of an instruction with this operand (R71). -/
def Operand.len (op : Operand) : Nat :=
  match op with
  | .imm _ => 2
  | .zp _ => 2
  | .zpx _ => 2
  | .zpy _ => 2
  | .abs _ => 3
  | .abx _ => 3
  | .aby _ => 3
  | .izx _ => 2
  | .izy _ => 2

/-- `ZpPtr(p)` (R98): the two bytes at `p` and at its successor within page zero, low byte first. -/
def zpPtr (p : Byte) (s : State) : Res (Word × State) :=
  chain (memRead (zext p) s) fun l =>
  chain (memRead (zext (p + 1#8)) l.2) fun h =>
  .next (join h.1 l.1, h.2)

/-- The resolver (R90 to R100): the effective address, and the state after the pointer reads. The address of an immediate
operand is the operand location `PC +16 1` (R91). -/
def resolve (op : Operand) (s : State) : Res (Word × State) :=
  match op with
  | .imm _ => .next (s.cpu.pc + 1#16, s)
  | .zp b => .next (zext b, s)
  | .zpx b => .next (zext (b + s.cpu.x), s)
  | .zpy b => .next (zext (b + s.cpu.y), s)
  | .abs w => .next (w, s)
  | .abx w => .next (w + zext s.cpu.x, s)
  | .aby w => .next (w + zext s.cpu.y, s)
  | .izx b => zpPtr (b + s.cpu.x) s
  | .izy b => chain (zpPtr b s) fun r => .next (r.1 + zext r.2.cpu.y, r.2)

/-- The operand a mode makes of the operand bytes `b1` and `b2` (spec/30_encoding.md R72); the mode `None` has no operand
that the resolver reads (R101). -/
def operandOf (mode : Mode) (b1 b2 : Byte) : Option Operand :=
  match mode with
  | .immediate => some (.imm b1)
  | .zeroPage => some (.zp b1)
  | .zeroPageX => some (.zpx b1)
  | .zeroPageY => some (.zpy b1)
  | .absolute => some (.abs (join b2 b1))
  | .absoluteX => some (.abx (join b2 b1))
  | .absoluteY => some (.aby (join b2 b1))
  | .indirectX => some (.izx b1)
  | .indirectY => some (.izy b1)
  | .none => none

/-- The reads of the operand bytes a mode needs, at the operand location `loc` (spec/30_encoding.md R72); the resolver reads no
byte of an immediate operand (R91). -/
def readOperandBytes (mode : Mode) (loc : Word) (s : State) : Res (Option Operand × State) :=
  match mode with
  | .immediate => .next (operandOf .immediate 0x00#8 0x00#8, s)
  | .zeroPage => chain (memRead loc s) fun r => .next (operandOf .zeroPage r.1 0x00#8, r.2)
  | .zeroPageX => chain (memRead loc s) fun r => .next (operandOf .zeroPageX r.1 0x00#8, r.2)
  | .zeroPageY => chain (memRead loc s) fun r => .next (operandOf .zeroPageY r.1 0x00#8, r.2)
  | .absolute => chain (memRead16 loc s) fun r => .next (operandOf .absolute (lo r.1) (hi r.1), r.2)
  | .absoluteX => chain (memRead16 loc s) fun r => .next (operandOf .absoluteX (lo r.1) (hi r.1), r.2)
  | .absoluteY => chain (memRead16 loc s) fun r => .next (operandOf .absoluteY (lo r.1) (hi r.1), r.2)
  | .indirectX => chain (memRead loc s) fun r => .next (operandOf .indirectX r.1 0x00#8, r.2)
  | .indirectY => chain (memRead loc s) fun r => .next (operandOf .indirectY r.1 0x00#8, r.2)
  | .none => .next (operandOf .none 0x00#8 0x00#8, s)

/-- `EA(mode, loc)`, the contract of R90, with the operand bytes read at `loc`: no address for the mode `None` (R101,
log entry 19). An instruction of the machine reaches `resolve` with the same bytes, read by the fetch (log entry 7). -/
def effectiveAddress (mode : Mode) (loc : Word) (s : State) : Res (Option Word × State) :=
  chain (readOperandBytes mode loc s) fun r =>
  match r.1 with
  | none => .next (none, r.2)
  | some op => chain (resolve op r.2) fun q => .next (some (if mode = .immediate then loc else q.1), q.2)

/-- The operand byte (R130, R151): the immediate byte itself, which the fetch has read, or one data read at the effective
address. -/
def readOperand (op : Operand) (s : State) : Res (Byte × State) :=
  match op with
  | .imm b => .next (b, s)
  | op => chain (resolve op s) fun r => memRead r.1 r.2

/-- `ZpPtr(p)` through a side-effect-free look at memory. -/
def zpPtrBy (look : Word → Byte) (p : Byte) : Word := join (look (zext (p + 1#8))) (look (zext p))

/-- The tracer's address computation `TEA` (spec/47_tracer.md R238): the resolver with a side-effect-free look in place of
`MemRead`; `loc` is the operand location. -/
def addressBy (look : Word → Byte) (x y : Byte) (loc : Word) (op : Operand) : Word :=
  match op with
  | .imm _ => loc
  | .zp b => zext b
  | .zpx b => zext (b + x)
  | .zpy b => zext (b + y)
  | .abs w => w
  | .abx w => w + zext x
  | .aby w => w + zext y
  | .izx b => zpPtrBy look (b + x)
  | .izy b => zpPtrBy look b + zext y

/-- `TEA` in a state (R238). -/
def peekAddress (op : Operand) (s : State) : Word :=
  addressBy (peek s) s.cpu.x s.cpu.y (s.cpu.pc + 1#16) op

/-! ## The shared shapes of instructions -/

/-- A load (R130): one data read, the register written, Z and N from the value moved. -/
def load (r : Reg) (op : Operand) (s : State) : Res State :=
  chain (readOperand op s) fun q =>
  .next (((q.2.setReg r q.1).setP (setZN q.1 q.2.cpu.p)).advance op.len)

/-- A store (R130): one data write, no data read, no flag. -/
def store (r : Reg) (op : Operand) (s : State) : Res State :=
  chain (resolve op s) fun q =>
  chain (memWrite q.1 (q.2.reg r) q.2) fun t =>
  .next (t.advance op.len)

/-- A transfer that sets Z and N (R137 to R141). -/
def transfer (src dst : Reg) (s : State) : Res State :=
  .next (((s.setReg dst (s.reg src)).setP (setZN (s.reg src) s.cpu.p)).advance 1)

/-- An accumulator operation with one data read (R151): `f A m p` is the new accumulator, `g A m p` the new status. -/
def accumulate (f g : Byte → Byte → Byte → Byte) (op : Operand) (s : State) : Res State :=
  chain (readOperand op s) fun q =>
  .next (((q.2.setReg .a (f q.2.cpu.a q.1 q.2.cpu.p)).setP (g q.2.cpu.a q.1 q.2.cpu.p)).advance op.len)

/-- An operation that reads one byte and writes only flags (R157 to R160): `g r m p` is the new status. -/
def examine (g : Byte → Byte → Byte → Byte) (r : Reg) (op : Operand) (s : State) : Res State :=
  chain (readOperand op s) fun q =>
  .next ((q.2.setP (g (q.2.reg r) q.1 q.2.cpu.p)).advance op.len)

/-- A read-modify-write (R170): one data read and one data write at the same address; the flags are the function's. -/
def modify (f : Unary) (op : Operand) (s : State) : Res State :=
  chain (resolve op s) fun q =>
  chain (memRead q.1 q.2) fun m =>
  chain (memWrite q.1 (f m.1 m.2.cpu.p).1 m.2) fun t =>
  .next ((t.setP (f m.1 m.2.cpu.p).2).advance op.len)

/-- A one-operand function on a register (R170, R177 to R180): no bus access. -/
def modifyReg (f : Unary) (r : Reg) (s : State) : Res State :=
  .next (((s.setReg r (f (s.reg r) s.cpu.p).1).setP (f (s.reg r) s.cpu.p).2).advance 1)

/-- The branch template (spec/45_control_flow.md R196), with the displacement the fetch has read. -/
def branch (taken : Bool) (b : Byte) (s : State) : Res State :=
  if taken then .next (s.setPc ((s.cpu.pc + 2#16) + sext b)) else .next (s.advance 2)

/-- A flag written by an instruction whose purpose it is (spec/46_stack_flags_system.md R216 to R222). -/
def writeFlag (f : Flag) (v : Bool) (s : State) : Res State := .next ((s.setFlag f v).advance 1)

end Sys2Proof.Machine
end

