-- ==== Sys2Proof/Machine/Arithmetic.lean ====
section
/-!
DEFINITION. Arithmetic, logic, compares and the bit test (spec/43_arithmetic_logic.md R151 to R160).
-/
namespace Sys2Proof.Machine

/-- `ADC` on an operand (R152). -/
def addWithCarry (op : Operand) (s : State) : Res State := accumulate adcResult adcStatus op s

/-- `SBC` on an operand (R153): `ADC` of the complemented operand. -/
def subtractWithCarry (op : Operand) (s : State) : Res State :=
  accumulate (fun a m p => adcResult a (m ^^^ 0xFF#8) p) (fun a m p => adcStatus a (m ^^^ 0xFF#8) p) op s

/-- A bitwise operation `f` with the accumulator (R154 to R156): Z and N from the result. -/
def logic (f : Byte → Byte → Byte) (op : Operand) (s : State) : Res State :=
  accumulate (fun a m _ => f a m) (fun a m p => setZN (f a m) p) op s

/-- A compare of a register with memory (R157 to R159). -/
def compare (r : Reg) (op : Operand) (s : State) : Res State := examine compareStatus r op s

/-- `BIT` on an operand (R160). -/
def bitTest (op : Operand) (s : State) : Res State := examine bitStatus .a op s

/-- `ADC ($nn,X)` (0x61, R152): add with carry. -/
def execAdcIzx (b : Byte) (s : State) : Res State := addWithCarry (.izx b) s

/-- `ADC $nn` (0x65, R152): add with carry. -/
def execAdcZp (b : Byte) (s : State) : Res State := addWithCarry (.zp b) s

/-- `ADC #$nn` (0x69, R152): add with carry. -/
def execAdcImm (b : Byte) (s : State) : Res State := addWithCarry (.imm b) s

/-- `ADC $nnnn` (0x6D, R152): add with carry. -/
def execAdcAbs (w : Word) (s : State) : Res State := addWithCarry (.abs w) s

/-- `ADC ($nn),Y` (0x71, R152): add with carry. -/
def execAdcIzy (b : Byte) (s : State) : Res State := addWithCarry (.izy b) s

/-- `ADC $nn,X` (0x75, R152): add with carry. -/
def execAdcZpx (b : Byte) (s : State) : Res State := addWithCarry (.zpx b) s

/-- `ADC $nnnn,Y` (0x79, R152): add with carry. -/
def execAdcAby (w : Word) (s : State) : Res State := addWithCarry (.aby w) s

/-- `ADC $nnnn,X` (0x7D, R152): add with carry. -/
def execAdcAbx (w : Word) (s : State) : Res State := addWithCarry (.abx w) s

/-- `SBC ($nn,X)` (0xE1, R153): subtract with borrow. -/
def execSbcIzx (b : Byte) (s : State) : Res State := subtractWithCarry (.izx b) s

/-- `SBC $nn` (0xE5, R153): subtract with borrow. -/
def execSbcZp (b : Byte) (s : State) : Res State := subtractWithCarry (.zp b) s

/-- `SBC #$nn` (0xE9, R153): subtract with borrow. -/
def execSbcImm (b : Byte) (s : State) : Res State := subtractWithCarry (.imm b) s

/-- `SBC $nnnn` (0xED, R153): subtract with borrow. -/
def execSbcAbs (w : Word) (s : State) : Res State := subtractWithCarry (.abs w) s

/-- `SBC ($nn),Y` (0xF1, R153): subtract with borrow. -/
def execSbcIzy (b : Byte) (s : State) : Res State := subtractWithCarry (.izy b) s

/-- `SBC $nn,X` (0xF5, R153): subtract with borrow. -/
def execSbcZpx (b : Byte) (s : State) : Res State := subtractWithCarry (.zpx b) s

/-- `SBC $nnnn,Y` (0xF9, R153): subtract with borrow. -/
def execSbcAby (w : Word) (s : State) : Res State := subtractWithCarry (.aby w) s

/-- `SBC $nnnn,X` (0xFD, R153): subtract with borrow. -/
def execSbcAbx (w : Word) (s : State) : Res State := subtractWithCarry (.abx w) s

/-- `AND ($nn,X)` (0x21, R154): bitwise and. -/
def execAndIzx (b : Byte) (s : State) : Res State := logic (· &&& ·) (.izx b) s

/-- `AND $nn` (0x25, R154): bitwise and. -/
def execAndZp (b : Byte) (s : State) : Res State := logic (· &&& ·) (.zp b) s

/-- `AND #$nn` (0x29, R154): bitwise and. -/
def execAndImm (b : Byte) (s : State) : Res State := logic (· &&& ·) (.imm b) s

/-- `AND $nnnn` (0x2D, R154): bitwise and. -/
def execAndAbs (w : Word) (s : State) : Res State := logic (· &&& ·) (.abs w) s

/-- `AND ($nn),Y` (0x31, R154): bitwise and. -/
def execAndIzy (b : Byte) (s : State) : Res State := logic (· &&& ·) (.izy b) s

/-- `AND $nn,X` (0x35, R154): bitwise and. -/
def execAndZpx (b : Byte) (s : State) : Res State := logic (· &&& ·) (.zpx b) s

/-- `AND $nnnn,Y` (0x39, R154): bitwise and. -/
def execAndAby (w : Word) (s : State) : Res State := logic (· &&& ·) (.aby w) s

/-- `AND $nnnn,X` (0x3D, R154): bitwise and. -/
def execAndAbx (w : Word) (s : State) : Res State := logic (· &&& ·) (.abx w) s

/-- `ORA ($nn,X)` (0x01, R155): bitwise or. -/
def execOraIzx (b : Byte) (s : State) : Res State := logic (· ||| ·) (.izx b) s

/-- `ORA $nn` (0x05, R155): bitwise or. -/
def execOraZp (b : Byte) (s : State) : Res State := logic (· ||| ·) (.zp b) s

/-- `ORA #$nn` (0x09, R155): bitwise or. -/
def execOraImm (b : Byte) (s : State) : Res State := logic (· ||| ·) (.imm b) s

/-- `ORA $nnnn` (0x0D, R155): bitwise or. -/
def execOraAbs (w : Word) (s : State) : Res State := logic (· ||| ·) (.abs w) s

/-- `ORA ($nn),Y` (0x11, R155): bitwise or. -/
def execOraIzy (b : Byte) (s : State) : Res State := logic (· ||| ·) (.izy b) s

/-- `ORA $nn,X` (0x15, R155): bitwise or. -/
def execOraZpx (b : Byte) (s : State) : Res State := logic (· ||| ·) (.zpx b) s

/-- `ORA $nnnn,Y` (0x19, R155): bitwise or. -/
def execOraAby (w : Word) (s : State) : Res State := logic (· ||| ·) (.aby w) s

/-- `ORA $nnnn,X` (0x1D, R155): bitwise or. -/
def execOraAbx (w : Word) (s : State) : Res State := logic (· ||| ·) (.abx w) s

/-- `EOR ($nn,X)` (0x41, R156): bitwise exclusive or. -/
def execEorIzx (b : Byte) (s : State) : Res State := logic (· ^^^ ·) (.izx b) s

/-- `EOR $nn` (0x45, R156): bitwise exclusive or. -/
def execEorZp (b : Byte) (s : State) : Res State := logic (· ^^^ ·) (.zp b) s

/-- `EOR #$nn` (0x49, R156): bitwise exclusive or. -/
def execEorImm (b : Byte) (s : State) : Res State := logic (· ^^^ ·) (.imm b) s

/-- `EOR $nnnn` (0x4D, R156): bitwise exclusive or. -/
def execEorAbs (w : Word) (s : State) : Res State := logic (· ^^^ ·) (.abs w) s

/-- `EOR ($nn),Y` (0x51, R156): bitwise exclusive or. -/
def execEorIzy (b : Byte) (s : State) : Res State := logic (· ^^^ ·) (.izy b) s

/-- `EOR $nn,X` (0x55, R156): bitwise exclusive or. -/
def execEorZpx (b : Byte) (s : State) : Res State := logic (· ^^^ ·) (.zpx b) s

/-- `EOR $nnnn,Y` (0x59, R156): bitwise exclusive or. -/
def execEorAby (w : Word) (s : State) : Res State := logic (· ^^^ ·) (.aby w) s

/-- `EOR $nnnn,X` (0x5D, R156): bitwise exclusive or. -/
def execEorAbx (w : Word) (s : State) : Res State := logic (· ^^^ ·) (.abx w) s

/-- `CMP ($nn,X)` (0xC1, R157): compare A. -/
def execCmpIzx (b : Byte) (s : State) : Res State := compare .a (.izx b) s

/-- `CMP $nn` (0xC5, R157): compare A. -/
def execCmpZp (b : Byte) (s : State) : Res State := compare .a (.zp b) s

/-- `CMP #$nn` (0xC9, R157): compare A. -/
def execCmpImm (b : Byte) (s : State) : Res State := compare .a (.imm b) s

/-- `CMP $nnnn` (0xCD, R157): compare A. -/
def execCmpAbs (w : Word) (s : State) : Res State := compare .a (.abs w) s

/-- `CMP ($nn),Y` (0xD1, R157): compare A. -/
def execCmpIzy (b : Byte) (s : State) : Res State := compare .a (.izy b) s

/-- `CMP $nn,X` (0xD5, R157): compare A. -/
def execCmpZpx (b : Byte) (s : State) : Res State := compare .a (.zpx b) s

/-- `CMP $nnnn,Y` (0xD9, R157): compare A. -/
def execCmpAby (w : Word) (s : State) : Res State := compare .a (.aby w) s

/-- `CMP $nnnn,X` (0xDD, R157): compare A. -/
def execCmpAbx (w : Word) (s : State) : Res State := compare .a (.abx w) s

/-- `CPX #$nn` (0xE0, R158): compare X. -/
def execCpxImm (b : Byte) (s : State) : Res State := compare .x (.imm b) s

/-- `CPX $nn` (0xE4, R158): compare X. -/
def execCpxZp (b : Byte) (s : State) : Res State := compare .x (.zp b) s

/-- `CPX $nnnn` (0xEC, R158): compare X. -/
def execCpxAbs (w : Word) (s : State) : Res State := compare .x (.abs w) s

/-- `CPY #$nn` (0xC0, R159): compare Y. -/
def execCpyImm (b : Byte) (s : State) : Res State := compare .y (.imm b) s

/-- `CPY $nn` (0xC4, R159): compare Y. -/
def execCpyZp (b : Byte) (s : State) : Res State := compare .y (.zp b) s

/-- `CPY $nnnn` (0xCC, R159): compare Y. -/
def execCpyAbs (w : Word) (s : State) : Res State := compare .y (.abs w) s

/-- `BIT $nn` (0x24, R160): bit test. -/
def execBitZp (b : Byte) (s : State) : Res State := bitTest (.zp b) s

/-- `BIT $nnnn` (0x2C, R160): bit test. -/
def execBitAbs (w : Word) (s : State) : Res State := bitTest (.abs w) s

end Sys2Proof.Machine
end

