-- ==== Sys2Proof/Machine/Control.lean ====
section
/-!
DEFINITION. Control transfers (spec/45_control_flow.md R190 to R205). The instructions that write `PC` take no length-based advance
(spec/41_execution_loop.md R117, R118).
-/
namespace Sys2Proof.Machine

/-- The address of a jump pointer's high byte (R205): the successor of `p` within its page, the kept NMOS defect (D36). -/
def pageSuccessor (p : Word) : Word := (p &&& 0xFF00#16) ||| ((p + 1#16) &&& 0x00FF#16)

/-- `JMP $nnnn` (0x4C, R191): jump. -/
def execJmpAbs (w : Word) (s : State) : Res State := .next (s.setPc w)

/-- `JMP ($nnnn)` (0x6C, R205): jump through a pointer, low byte first. -/
def execJmpInd (w : Word) (s : State) : Res State := 
  chain (memRead w s) fun l =>
  chain (memRead (pageSuccessor w) l.2) fun h =>
  .next (h.2.setPc (join h.1 l.1))

/-- `JSR $nnnn` (0x20, R192): push the address of the last byte of the instruction, then jump. -/
def execJsr (w : Word) (s : State) : Res State := 
  chain (pushWord (s.cpu.pc + 2#16) s) fun t => .next (t.setPc w)

/-- `RTS` (0x60, R193): pull the address and add one. -/
def execRts (s : State) : Res State := 
  chain (pullWord s) fun r => .next (r.2.setPc (r.1 + 1#16))

/-- `RTI` (0x40, R194): return from interrupt. -/
def execRti (s : State) : Res State := returnFromInterrupt s

/-- `BRK` (0x00, R195): the software form of interrupt entry (spec/60_exceptions.md R320); the byte after the opcode is
skipped, not read. -/
def execBrk (s : State) : Res State := 
  enter (s.cpu.pc + 2#16) (pushedBySoftware s.cpu.p) Config.irqVector s

/-- `BPL $tttt` (0x10, R197): branch if plus. -/
def execBpl (b : Byte) (s : State) : Res State := branch (!s.flag .negative) b s

/-- `BMI $tttt` (0x30, R198): branch if minus. -/
def execBmi (b : Byte) (s : State) : Res State := branch (s.flag .negative) b s

/-- `BVC $tttt` (0x50, R199): branch if overflow clear. -/
def execBvc (b : Byte) (s : State) : Res State := branch (!s.flag .overflow) b s

/-- `BVS $tttt` (0x70, R200): branch if overflow set. -/
def execBvs (b : Byte) (s : State) : Res State := branch (s.flag .overflow) b s

/-- `BCC $tttt` (0x90, R201): branch if carry clear. -/
def execBcc (b : Byte) (s : State) : Res State := branch (!s.flag .carry) b s

/-- `BCS $tttt` (0xB0, R202): branch if carry set. -/
def execBcs (b : Byte) (s : State) : Res State := branch (s.flag .carry) b s

/-- `BNE $tttt` (0xD0, R203): branch if not equal. -/
def execBne (b : Byte) (s : State) : Res State := branch (!s.flag .zero) b s

/-- `BEQ $tttt` (0xF0, R204): branch if equal. -/
def execBeq (b : Byte) (s : State) : Res State := branch (s.flag .zero) b s

end Sys2Proof.Machine
end

