-- ==== Sys2Proof/Machine/LoadStore.lean ====
section
/-!
DEFINITION. Loads, stores and register transfers (spec/42_load_store_transfer.md R130 to R142).
-/
namespace Sys2Proof.Machine

/-- `LDA ($nn,X)` (0xA1, R131): load A. -/
def execLdaIzx (b : Byte) (s : State) : Res State := load .a (.izx b) s

/-- `LDA $nn` (0xA5, R131): load A. -/
def execLdaZp (b : Byte) (s : State) : Res State := load .a (.zp b) s

/-- `LDA #$nn` (0xA9, R131): load A. -/
def execLdaImm (b : Byte) (s : State) : Res State := load .a (.imm b) s

/-- `LDA $nnnn` (0xAD, R131): load A. -/
def execLdaAbs (w : Word) (s : State) : Res State := load .a (.abs w) s

/-- `LDA ($nn),Y` (0xB1, R131): load A. -/
def execLdaIzy (b : Byte) (s : State) : Res State := load .a (.izy b) s

/-- `LDA $nn,X` (0xB5, R131): load A. -/
def execLdaZpx (b : Byte) (s : State) : Res State := load .a (.zpx b) s

/-- `LDA $nnnn,Y` (0xB9, R131): load A. -/
def execLdaAby (w : Word) (s : State) : Res State := load .a (.aby w) s

/-- `LDA $nnnn,X` (0xBD, R131): load A. -/
def execLdaAbx (w : Word) (s : State) : Res State := load .a (.abx w) s

/-- `LDX #$nn` (0xA2, R132): load X. -/
def execLdxImm (b : Byte) (s : State) : Res State := load .x (.imm b) s

/-- `LDX $nn` (0xA6, R132): load X. -/
def execLdxZp (b : Byte) (s : State) : Res State := load .x (.zp b) s

/-- `LDX $nnnn` (0xAE, R132): load X. -/
def execLdxAbs (w : Word) (s : State) : Res State := load .x (.abs w) s

/-- `LDX $nn,Y` (0xB6, R132): load X. -/
def execLdxZpy (b : Byte) (s : State) : Res State := load .x (.zpy b) s

/-- `LDX $nnnn,Y` (0xBE, R132): load X. -/
def execLdxAby (w : Word) (s : State) : Res State := load .x (.aby w) s

/-- `LDY #$nn` (0xA0, R133): load Y. -/
def execLdyImm (b : Byte) (s : State) : Res State := load .y (.imm b) s

/-- `LDY $nn` (0xA4, R133): load Y. -/
def execLdyZp (b : Byte) (s : State) : Res State := load .y (.zp b) s

/-- `LDY $nnnn` (0xAC, R133): load Y. -/
def execLdyAbs (w : Word) (s : State) : Res State := load .y (.abs w) s

/-- `LDY $nn,X` (0xB4, R133): load Y. -/
def execLdyZpx (b : Byte) (s : State) : Res State := load .y (.zpx b) s

/-- `LDY $nnnn,X` (0xBC, R133): load Y. -/
def execLdyAbx (w : Word) (s : State) : Res State := load .y (.abx w) s

/-- `STA ($nn,X)` (0x81, R134): store A. -/
def execStaIzx (b : Byte) (s : State) : Res State := store .a (.izx b) s

/-- `STA $nn` (0x85, R134): store A. -/
def execStaZp (b : Byte) (s : State) : Res State := store .a (.zp b) s

/-- `STA $nnnn` (0x8D, R134): store A. -/
def execStaAbs (w : Word) (s : State) : Res State := store .a (.abs w) s

/-- `STA ($nn),Y` (0x91, R134): store A. -/
def execStaIzy (b : Byte) (s : State) : Res State := store .a (.izy b) s

/-- `STA $nn,X` (0x95, R134): store A. -/
def execStaZpx (b : Byte) (s : State) : Res State := store .a (.zpx b) s

/-- `STA $nnnn,Y` (0x99, R134): store A. -/
def execStaAby (w : Word) (s : State) : Res State := store .a (.aby w) s

/-- `STA $nnnn,X` (0x9D, R134): store A. -/
def execStaAbx (w : Word) (s : State) : Res State := store .a (.abx w) s

/-- `STX $nn` (0x86, R135): store X. -/
def execStxZp (b : Byte) (s : State) : Res State := store .x (.zp b) s

/-- `STX $nnnn` (0x8E, R135): store X. -/
def execStxAbs (w : Word) (s : State) : Res State := store .x (.abs w) s

/-- `STX $nn,Y` (0x96, R135): store X. -/
def execStxZpy (b : Byte) (s : State) : Res State := store .x (.zpy b) s

/-- `STY $nn` (0x84, R136): store Y. -/
def execStyZp (b : Byte) (s : State) : Res State := store .y (.zp b) s

/-- `STY $nnnn` (0x8C, R136): store Y. -/
def execStyAbs (w : Word) (s : State) : Res State := store .y (.abs w) s

/-- `STY $nn,X` (0x94, R136): store Y. -/
def execStyZpx (b : Byte) (s : State) : Res State := store .y (.zpx b) s

/-- `TAX` (0xAA, R137): A to X. -/
def execTax (s : State) : Res State := transfer .a .x s

/-- `TAY` (0xA8, R138): A to Y. -/
def execTay (s : State) : Res State := transfer .a .y s

/-- `TXA` (0x8A, R139): X to A. -/
def execTxa (s : State) : Res State := transfer .x .a s

/-- `TYA` (0x98, R140): Y to A. -/
def execTya (s : State) : Res State := transfer .y .a s

/-- `TSX` (0xBA, R141): SP to X. -/
def execTsx (s : State) : Res State := transfer .sp .x s

/-- `TXS` (0x9A, R142): X to SP; the one transfer that leaves `P` untouched. -/
def execTxs (s : State) : Res State := .next ((s.setReg .sp s.cpu.x).advance 1)

end Sys2Proof.Machine
end

