-- ==== Sys2Proof/Machine/Shift.lean ====
section
/-!
DEFINITION. Shifts, rotates, increments and decrements (spec/44_shift_inc_dec.md R170 to R180).
-/
namespace Sys2Proof.Machine

/-- `ASL $nn` (0x06, R171): shift left. -/
def execAslZp (b : Byte) (s : State) : Res State := modify aslOp (.zp b) s

/-- `ASL A` (0x0A, R171): shift left. -/
def execAslAcc (s : State) : Res State := modifyReg aslOp .a s

/-- `ASL $nnnn` (0x0E, R171): shift left. -/
def execAslAbs (w : Word) (s : State) : Res State := modify aslOp (.abs w) s

/-- `ASL $nn,X` (0x16, R171): shift left. -/
def execAslZpx (b : Byte) (s : State) : Res State := modify aslOp (.zpx b) s

/-- `ASL $nnnn,X` (0x1E, R171): shift left. -/
def execAslAbx (w : Word) (s : State) : Res State := modify aslOp (.abx w) s

/-- `LSR $nn` (0x46, R172): shift right. -/
def execLsrZp (b : Byte) (s : State) : Res State := modify lsrOp (.zp b) s

/-- `LSR A` (0x4A, R172): shift right. -/
def execLsrAcc (s : State) : Res State := modifyReg lsrOp .a s

/-- `LSR $nnnn` (0x4E, R172): shift right. -/
def execLsrAbs (w : Word) (s : State) : Res State := modify lsrOp (.abs w) s

/-- `LSR $nn,X` (0x56, R172): shift right. -/
def execLsrZpx (b : Byte) (s : State) : Res State := modify lsrOp (.zpx b) s

/-- `LSR $nnnn,X` (0x5E, R172): shift right. -/
def execLsrAbx (w : Word) (s : State) : Res State := modify lsrOp (.abx w) s

/-- `ROL $nn` (0x26, R173): rotate left through carry. -/
def execRolZp (b : Byte) (s : State) : Res State := modify rolOp (.zp b) s

/-- `ROL A` (0x2A, R173): rotate left through carry. -/
def execRolAcc (s : State) : Res State := modifyReg rolOp .a s

/-- `ROL $nnnn` (0x2E, R173): rotate left through carry. -/
def execRolAbs (w : Word) (s : State) : Res State := modify rolOp (.abs w) s

/-- `ROL $nn,X` (0x36, R173): rotate left through carry. -/
def execRolZpx (b : Byte) (s : State) : Res State := modify rolOp (.zpx b) s

/-- `ROL $nnnn,X` (0x3E, R173): rotate left through carry. -/
def execRolAbx (w : Word) (s : State) : Res State := modify rolOp (.abx w) s

/-- `ROR $nn` (0x66, R174): rotate right through carry. -/
def execRorZp (b : Byte) (s : State) : Res State := modify rorOp (.zp b) s

/-- `ROR A` (0x6A, R174): rotate right through carry. -/
def execRorAcc (s : State) : Res State := modifyReg rorOp .a s

/-- `ROR $nnnn` (0x6E, R174): rotate right through carry. -/
def execRorAbs (w : Word) (s : State) : Res State := modify rorOp (.abs w) s

/-- `ROR $nn,X` (0x76, R174): rotate right through carry. -/
def execRorZpx (b : Byte) (s : State) : Res State := modify rorOp (.zpx b) s

/-- `ROR $nnnn,X` (0x7E, R174): rotate right through carry. -/
def execRorAbx (w : Word) (s : State) : Res State := modify rorOp (.abx w) s

/-- `INC $nn` (0xE6, R175): increment memory. -/
def execIncZp (b : Byte) (s : State) : Res State := modify incOp (.zp b) s

/-- `INC $nnnn` (0xEE, R175): increment memory. -/
def execIncAbs (w : Word) (s : State) : Res State := modify incOp (.abs w) s

/-- `INC $nn,X` (0xF6, R175): increment memory. -/
def execIncZpx (b : Byte) (s : State) : Res State := modify incOp (.zpx b) s

/-- `INC $nnnn,X` (0xFE, R175): increment memory. -/
def execIncAbx (w : Word) (s : State) : Res State := modify incOp (.abx w) s

/-- `DEC $nn` (0xC6, R176): decrement memory. -/
def execDecZp (b : Byte) (s : State) : Res State := modify decOp (.zp b) s

/-- `DEC $nnnn` (0xCE, R176): decrement memory. -/
def execDecAbs (w : Word) (s : State) : Res State := modify decOp (.abs w) s

/-- `DEC $nn,X` (0xD6, R176): decrement memory. -/
def execDecZpx (b : Byte) (s : State) : Res State := modify decOp (.zpx b) s

/-- `DEC $nnnn,X` (0xDE, R176): decrement memory. -/
def execDecAbx (w : Word) (s : State) : Res State := modify decOp (.abx w) s

/-- `INX` (0xE8, R177): increment X. -/
def execInx (s : State) : Res State := modifyReg incOp .x s

/-- `INY` (0xC8, R178): increment Y. -/
def execIny (s : State) : Res State := modifyReg incOp .y s

/-- `DEX` (0xCA, R179): decrement X. -/
def execDex (s : State) : Res State := modifyReg decOp .x s

/-- `DEY` (0x88, R180): decrement Y. -/
def execDey (s : State) : Res State := modifyReg decOp .y s

end Sys2Proof.Machine
end

