-- ==== Sys2Proof/Machine/Stack.lean ====
section
/-!
DEFINITION. Stack, flag and no-operation instructions (spec/46_stack_flags_system.md R212 to R223).
-/
namespace Sys2Proof.Machine

/-- `PHA` (0x48, R212): push A. -/
def execPha (s : State) : Res State := chain (push s.cpu.a s) fun t => .next (t.advance 1)

/-- `PHP` (0x08, R213): push `P` with bits 4 and 5 set. -/
def execPhp (s : State) : Res State := 
  chain (push (pushedBySoftware s.cpu.p) s) fun t => .next (t.advance 1)

/-- `PLA` (0x68, R214): pull A, set Z and N. -/
def execPla (s : State) : Res State := 
  chain (pull s) fun r => .next (((r.2.setReg .a r.1).setP (setZN r.1 r.2.cpu.p)).advance 1)

/-- `PLP` (0x28, R215): pull `P`, bit 4 forced to 0 and bit 5 to 1. -/
def execPlp (s : State) : Res State := 
  chain (pull s) fun r => .next ((r.2.setP (pulledStatus r.1)).advance 1)

/-- `CLC` (0x18, R216): clear carry. -/
def execClc (s : State) : Res State := writeFlag .carry false s

/-- `SEC` (0x38, R217): set carry. -/
def execSec (s : State) : Res State := writeFlag .carry true s

/-- `CLI` (0x58, R218): clear interrupt-disable. -/
def execCli (s : State) : Res State := writeFlag .interruptDisable false s

/-- `SEI` (0x78, R219): set interrupt-disable. -/
def execSei (s : State) : Res State := writeFlag .interruptDisable true s

/-- `CLD` (0xD8, R220): clear decimal. -/
def execCld (s : State) : Res State := writeFlag .decimal false s

/-- `SED` (0xF8, R221): set decimal. -/
def execSed (s : State) : Res State := writeFlag .decimal true s

/-- `CLV` (0xB8, R222): clear overflow. -/
def execClv (s : State) : Res State := writeFlag .overflow false s

/-- `NOP` (0xEA, R223): no operation. -/
def execNop (s : State) : Res State := .next (s.advance 1)

end Sys2Proof.Machine
end

