-- ==== Sys2Proof/WellFormed.lean ====
section
/-!
DEFINITION. Well-formedness of the syntax. The operand fields of `Instr` have exactly the widths of the formats
(spec/30_encoding.md R71), so every term of `Instr` is a well-formed instruction; what can be ill-formed is an entry of
the metadata table, and R73 says when.
-/
namespace Sys2Proof

/-- R73, first clause: the length is 1, 2 or 3. -/
def MetaEntry.lenOk (e : MetaEntry) : Bool := e.len == 1 || e.len == 2 || e.len == 3

/-- R73, second clause: a mode with one operand byte has length 2, with two has length 3; `None` fixes no length. -/
def MetaEntry.modeOk (e : MetaEntry) : Bool :=
  match e.mode with
  | .immediate | .zeroPage | .zeroPageX | .zeroPageY | .indirectX | .indirectY => e.len == 2
  | .absolute | .absoluteX | .absoluteY => e.len == 3
  | .none => true

/-- R74: the operand form agrees with the mode and, for `None`, with the length. -/
def MetaEntry.formOk (e : MetaEntry) : Bool :=
  match e.mode, e.form with
  | .immediate, .imm => true
  | .zeroPage, .zp => true
  | .zeroPageX, .zpx => true
  | .zeroPageY, .zpy => true
  | .absolute, .abs => true
  | .absoluteX, .abx => true
  | .absoluteY, .aby => true
  | .indirectX, .izx => true
  | .indirectY, .izy => true
  | .none, .imp => e.len == 1
  | .none, .acc => e.len == 1
  | .none, .rel => e.len == 2
  | .none, .jabs => e.len == 3
  | .none, .jind => e.len == 3
  | _, _ => false

/-- A well-formed metadata entry (R73, R74). -/
def MetaEntry.wf (e : MetaEntry) : Bool := e.lenOk && e.modeOk && e.formOk

end Sys2Proof
end

