-- ==== Sys2Proof/Decode.lean ====
section
/-!
DEFINITION. The encoding (spec/30_encoding.md): the default metadata table `META` (R75), the decoder (R70 to R74), the
encoder written from the same table, and the host's view of one table word.
-/
namespace Sys2Proof
open Sys2Proof.Machine (lo hi join)

/-- The rows of R75 with opcode bytes 0x00 to 0x0F. -/
def metaRows0 : List (Byte × MetaEntry) :=
  [(0x00#8, ⟨.brk, 1, 7, .none, .imp⟩),
   (0x01#8, ⟨.ora, 2, 6, .indirectX, .izx⟩),
   (0x05#8, ⟨.ora, 2, 3, .zeroPage, .zp⟩),
   (0x06#8, ⟨.asl, 2, 5, .zeroPage, .zp⟩),
   (0x08#8, ⟨.php, 1, 3, .none, .imp⟩),
   (0x09#8, ⟨.ora, 2, 2, .immediate, .imm⟩),
   (0x0A#8, ⟨.asl, 1, 2, .none, .acc⟩),
   (0x0D#8, ⟨.ora, 3, 4, .absolute, .abs⟩),
   (0x0E#8, ⟨.asl, 3, 6, .absolute, .abs⟩)]

/-- The rows of R75 with opcode bytes 0x10 to 0x1F. -/
def metaRows1 : List (Byte × MetaEntry) :=
  [(0x10#8, ⟨.bpl, 2, 2, .none, .rel⟩),
   (0x11#8, ⟨.ora, 2, 5, .indirectY, .izy⟩),
   (0x15#8, ⟨.ora, 2, 4, .zeroPageX, .zpx⟩),
   (0x16#8, ⟨.asl, 2, 6, .zeroPageX, .zpx⟩),
   (0x18#8, ⟨.clc, 1, 2, .none, .imp⟩),
   (0x19#8, ⟨.ora, 3, 4, .absoluteY, .aby⟩),
   (0x1D#8, ⟨.ora, 3, 4, .absoluteX, .abx⟩),
   (0x1E#8, ⟨.asl, 3, 7, .absoluteX, .abx⟩)]

/-- The rows of R75 with opcode bytes 0x20 to 0x2F. -/
def metaRows2 : List (Byte × MetaEntry) :=
  [(0x20#8, ⟨.jsr, 3, 6, .none, .jabs⟩),
   (0x21#8, ⟨.and, 2, 6, .indirectX, .izx⟩),
   (0x24#8, ⟨.bit, 2, 3, .zeroPage, .zp⟩),
   (0x25#8, ⟨.and, 2, 3, .zeroPage, .zp⟩),
   (0x26#8, ⟨.rol, 2, 5, .zeroPage, .zp⟩),
   (0x28#8, ⟨.plp, 1, 4, .none, .imp⟩),
   (0x29#8, ⟨.and, 2, 2, .immediate, .imm⟩),
   (0x2A#8, ⟨.rol, 1, 2, .none, .acc⟩),
   (0x2C#8, ⟨.bit, 3, 4, .absolute, .abs⟩),
   (0x2D#8, ⟨.and, 3, 4, .absolute, .abs⟩),
   (0x2E#8, ⟨.rol, 3, 6, .absolute, .abs⟩)]

/-- The rows of R75 with opcode bytes 0x30 to 0x3F. -/
def metaRows3 : List (Byte × MetaEntry) :=
  [(0x30#8, ⟨.bmi, 2, 2, .none, .rel⟩),
   (0x31#8, ⟨.and, 2, 5, .indirectY, .izy⟩),
   (0x35#8, ⟨.and, 2, 4, .zeroPageX, .zpx⟩),
   (0x36#8, ⟨.rol, 2, 6, .zeroPageX, .zpx⟩),
   (0x38#8, ⟨.sec, 1, 2, .none, .imp⟩),
   (0x39#8, ⟨.and, 3, 4, .absoluteY, .aby⟩),
   (0x3D#8, ⟨.and, 3, 4, .absoluteX, .abx⟩),
   (0x3E#8, ⟨.rol, 3, 7, .absoluteX, .abx⟩)]

/-- The rows of R75 with opcode bytes 0x40 to 0x4F. -/
def metaRows4 : List (Byte × MetaEntry) :=
  [(0x40#8, ⟨.rti, 1, 6, .none, .imp⟩),
   (0x41#8, ⟨.eor, 2, 6, .indirectX, .izx⟩),
   (0x45#8, ⟨.eor, 2, 3, .zeroPage, .zp⟩),
   (0x46#8, ⟨.lsr, 2, 5, .zeroPage, .zp⟩),
   (0x48#8, ⟨.pha, 1, 3, .none, .imp⟩),
   (0x49#8, ⟨.eor, 2, 2, .immediate, .imm⟩),
   (0x4A#8, ⟨.lsr, 1, 2, .none, .acc⟩),
   (0x4C#8, ⟨.jmp, 3, 3, .none, .jabs⟩),
   (0x4D#8, ⟨.eor, 3, 4, .absolute, .abs⟩),
   (0x4E#8, ⟨.lsr, 3, 6, .absolute, .abs⟩)]

/-- The rows of R75 with opcode bytes 0x50 to 0x5F. -/
def metaRows5 : List (Byte × MetaEntry) :=
  [(0x50#8, ⟨.bvc, 2, 2, .none, .rel⟩),
   (0x51#8, ⟨.eor, 2, 5, .indirectY, .izy⟩),
   (0x55#8, ⟨.eor, 2, 4, .zeroPageX, .zpx⟩),
   (0x56#8, ⟨.lsr, 2, 6, .zeroPageX, .zpx⟩),
   (0x58#8, ⟨.cli, 1, 2, .none, .imp⟩),
   (0x59#8, ⟨.eor, 3, 4, .absoluteY, .aby⟩),
   (0x5D#8, ⟨.eor, 3, 4, .absoluteX, .abx⟩),
   (0x5E#8, ⟨.lsr, 3, 7, .absoluteX, .abx⟩)]

/-- The rows of R75 with opcode bytes 0x60 to 0x6F. -/
def metaRows6 : List (Byte × MetaEntry) :=
  [(0x60#8, ⟨.rts, 1, 6, .none, .imp⟩),
   (0x61#8, ⟨.adc, 2, 6, .indirectX, .izx⟩),
   (0x65#8, ⟨.adc, 2, 3, .zeroPage, .zp⟩),
   (0x66#8, ⟨.ror, 2, 5, .zeroPage, .zp⟩),
   (0x68#8, ⟨.pla, 1, 4, .none, .imp⟩),
   (0x69#8, ⟨.adc, 2, 2, .immediate, .imm⟩),
   (0x6A#8, ⟨.ror, 1, 2, .none, .acc⟩),
   (0x6C#8, ⟨.jmp, 3, 5, .none, .jind⟩),
   (0x6D#8, ⟨.adc, 3, 4, .absolute, .abs⟩),
   (0x6E#8, ⟨.ror, 3, 6, .absolute, .abs⟩)]

/-- The rows of R75 with opcode bytes 0x70 to 0x7F. -/
def metaRows7 : List (Byte × MetaEntry) :=
  [(0x70#8, ⟨.bvs, 2, 2, .none, .rel⟩),
   (0x71#8, ⟨.adc, 2, 5, .indirectY, .izy⟩),
   (0x75#8, ⟨.adc, 2, 4, .zeroPageX, .zpx⟩),
   (0x76#8, ⟨.ror, 2, 6, .zeroPageX, .zpx⟩),
   (0x78#8, ⟨.sei, 1, 2, .none, .imp⟩),
   (0x79#8, ⟨.adc, 3, 4, .absoluteY, .aby⟩),
   (0x7D#8, ⟨.adc, 3, 4, .absoluteX, .abx⟩),
   (0x7E#8, ⟨.ror, 3, 7, .absoluteX, .abx⟩)]

/-- The rows of R75 with opcode bytes 0x80 to 0x8F. -/
def metaRows8 : List (Byte × MetaEntry) :=
  [(0x81#8, ⟨.sta, 2, 6, .indirectX, .izx⟩),
   (0x84#8, ⟨.sty, 2, 3, .zeroPage, .zp⟩),
   (0x85#8, ⟨.sta, 2, 3, .zeroPage, .zp⟩),
   (0x86#8, ⟨.stx, 2, 3, .zeroPage, .zp⟩),
   (0x88#8, ⟨.dey, 1, 2, .none, .imp⟩),
   (0x8A#8, ⟨.txa, 1, 2, .none, .imp⟩),
   (0x8C#8, ⟨.sty, 3, 4, .absolute, .abs⟩),
   (0x8D#8, ⟨.sta, 3, 4, .absolute, .abs⟩),
   (0x8E#8, ⟨.stx, 3, 4, .absolute, .abs⟩)]

/-- The rows of R75 with opcode bytes 0x90 to 0x9F. -/
def metaRows9 : List (Byte × MetaEntry) :=
  [(0x90#8, ⟨.bcc, 2, 2, .none, .rel⟩),
   (0x91#8, ⟨.sta, 2, 6, .indirectY, .izy⟩),
   (0x94#8, ⟨.sty, 2, 4, .zeroPageX, .zpx⟩),
   (0x95#8, ⟨.sta, 2, 4, .zeroPageX, .zpx⟩),
   (0x96#8, ⟨.stx, 2, 4, .zeroPageY, .zpy⟩),
   (0x98#8, ⟨.tya, 1, 2, .none, .imp⟩),
   (0x99#8, ⟨.sta, 3, 5, .absoluteY, .aby⟩),
   (0x9A#8, ⟨.txs, 1, 2, .none, .imp⟩),
   (0x9D#8, ⟨.sta, 3, 5, .absoluteX, .abx⟩)]

/-- The rows of R75 with opcode bytes 0xA0 to 0xAF. -/
def metaRowsA : List (Byte × MetaEntry) :=
  [(0xA0#8, ⟨.ldy, 2, 2, .immediate, .imm⟩),
   (0xA1#8, ⟨.lda, 2, 6, .indirectX, .izx⟩),
   (0xA2#8, ⟨.ldx, 2, 2, .immediate, .imm⟩),
   (0xA4#8, ⟨.ldy, 2, 3, .zeroPage, .zp⟩),
   (0xA5#8, ⟨.lda, 2, 3, .zeroPage, .zp⟩),
   (0xA6#8, ⟨.ldx, 2, 3, .zeroPage, .zp⟩),
   (0xA8#8, ⟨.tay, 1, 2, .none, .imp⟩),
   (0xA9#8, ⟨.lda, 2, 2, .immediate, .imm⟩),
   (0xAA#8, ⟨.tax, 1, 2, .none, .imp⟩),
   (0xAC#8, ⟨.ldy, 3, 4, .absolute, .abs⟩),
   (0xAD#8, ⟨.lda, 3, 4, .absolute, .abs⟩),
   (0xAE#8, ⟨.ldx, 3, 4, .absolute, .abs⟩)]

/-- The rows of R75 with opcode bytes 0xB0 to 0xBF. -/
def metaRowsB : List (Byte × MetaEntry) :=
  [(0xB0#8, ⟨.bcs, 2, 2, .none, .rel⟩),
   (0xB1#8, ⟨.lda, 2, 5, .indirectY, .izy⟩),
   (0xB4#8, ⟨.ldy, 2, 4, .zeroPageX, .zpx⟩),
   (0xB5#8, ⟨.lda, 2, 4, .zeroPageX, .zpx⟩),
   (0xB6#8, ⟨.ldx, 2, 4, .zeroPageY, .zpy⟩),
   (0xB8#8, ⟨.clv, 1, 2, .none, .imp⟩),
   (0xB9#8, ⟨.lda, 3, 4, .absoluteY, .aby⟩),
   (0xBA#8, ⟨.tsx, 1, 2, .none, .imp⟩),
   (0xBC#8, ⟨.ldy, 3, 4, .absoluteX, .abx⟩),
   (0xBD#8, ⟨.lda, 3, 4, .absoluteX, .abx⟩),
   (0xBE#8, ⟨.ldx, 3, 4, .absoluteY, .aby⟩)]

/-- The rows of R75 with opcode bytes 0xC0 to 0xCF. -/
def metaRowsC : List (Byte × MetaEntry) :=
  [(0xC0#8, ⟨.cpy, 2, 2, .immediate, .imm⟩),
   (0xC1#8, ⟨.cmp, 2, 6, .indirectX, .izx⟩),
   (0xC4#8, ⟨.cpy, 2, 3, .zeroPage, .zp⟩),
   (0xC5#8, ⟨.cmp, 2, 3, .zeroPage, .zp⟩),
   (0xC6#8, ⟨.dec, 2, 5, .zeroPage, .zp⟩),
   (0xC8#8, ⟨.iny, 1, 2, .none, .imp⟩),
   (0xC9#8, ⟨.cmp, 2, 2, .immediate, .imm⟩),
   (0xCA#8, ⟨.dex, 1, 2, .none, .imp⟩),
   (0xCC#8, ⟨.cpy, 3, 4, .absolute, .abs⟩),
   (0xCD#8, ⟨.cmp, 3, 4, .absolute, .abs⟩),
   (0xCE#8, ⟨.dec, 3, 6, .absolute, .abs⟩)]

/-- The rows of R75 with opcode bytes 0xD0 to 0xDF. -/
def metaRowsD : List (Byte × MetaEntry) :=
  [(0xD0#8, ⟨.bne, 2, 2, .none, .rel⟩),
   (0xD1#8, ⟨.cmp, 2, 5, .indirectY, .izy⟩),
   (0xD5#8, ⟨.cmp, 2, 4, .zeroPageX, .zpx⟩),
   (0xD6#8, ⟨.dec, 2, 6, .zeroPageX, .zpx⟩),
   (0xD8#8, ⟨.cld, 1, 2, .none, .imp⟩),
   (0xD9#8, ⟨.cmp, 3, 4, .absoluteY, .aby⟩),
   (0xDD#8, ⟨.cmp, 3, 4, .absoluteX, .abx⟩),
   (0xDE#8, ⟨.dec, 3, 7, .absoluteX, .abx⟩)]

/-- The rows of R75 with opcode bytes 0xE0 to 0xEF. -/
def metaRowsE : List (Byte × MetaEntry) :=
  [(0xE0#8, ⟨.cpx, 2, 2, .immediate, .imm⟩),
   (0xE1#8, ⟨.sbc, 2, 6, .indirectX, .izx⟩),
   (0xE4#8, ⟨.cpx, 2, 3, .zeroPage, .zp⟩),
   (0xE5#8, ⟨.sbc, 2, 3, .zeroPage, .zp⟩),
   (0xE6#8, ⟨.inc, 2, 5, .zeroPage, .zp⟩),
   (0xE8#8, ⟨.inx, 1, 2, .none, .imp⟩),
   (0xE9#8, ⟨.sbc, 2, 2, .immediate, .imm⟩),
   (0xEA#8, ⟨.nop, 1, 2, .none, .imp⟩),
   (0xEC#8, ⟨.cpx, 3, 4, .absolute, .abs⟩),
   (0xED#8, ⟨.sbc, 3, 4, .absolute, .abs⟩),
   (0xEE#8, ⟨.inc, 3, 6, .absolute, .abs⟩)]

/-- The rows of R75 with opcode bytes 0xF0 to 0xFF. -/
def metaRowsF : List (Byte × MetaEntry) :=
  [(0xF0#8, ⟨.beq, 2, 2, .none, .rel⟩),
   (0xF1#8, ⟨.sbc, 2, 5, .indirectY, .izy⟩),
   (0xF5#8, ⟨.sbc, 2, 4, .zeroPageX, .zpx⟩),
   (0xF6#8, ⟨.inc, 2, 6, .zeroPageX, .zpx⟩),
   (0xF8#8, ⟨.sed, 1, 2, .none, .imp⟩),
   (0xF9#8, ⟨.sbc, 3, 4, .absoluteY, .aby⟩),
   (0xFD#8, ⟨.sbc, 3, 4, .absoluteX, .abx⟩),
   (0xFE#8, ⟨.inc, 3, 7, .absoluteX, .abx⟩)]

/-- The default `META` (R75): 151 rows in opcode order. -/
def metaTable : List (Byte × MetaEntry) :=
  metaRows0 ++ metaRows1 ++ metaRows2 ++ metaRows3 ++ metaRows4 ++ metaRows5 ++ metaRows6 ++ metaRows7 ++
  metaRows8 ++ metaRows9 ++ metaRowsA ++ metaRowsB ++ metaRowsC ++ metaRowsD ++ metaRowsE ++ metaRowsF

/-- `META(opcode)` of R70: the entry of an opcode byte, absent for the 105 bytes of R77. -/
def metaOf (op : Byte) : Option MetaEntry :=
  (metaTable.find? (fun row => row.1 == op)).map (fun row => row.2)

/-- The instruction of an opcode byte and its operand bytes (R71, R72): `b1` is byte 1, `b2` is byte 2, and a form that has
no such byte ignores it. Absent exactly for the bytes of R77. -/
def assemble (op b1 b2 : Byte) : Option Instr :=
  match op.toNat with
  | 0x00 => some .brk
  | 0x01 => some (.oraIzx b1)
  | 0x05 => some (.oraZp b1)
  | 0x06 => some (.aslZp b1)
  | 0x08 => some .php
  | 0x09 => some (.oraImm b1)
  | 0x0A => some .aslAcc
  | 0x0D => some (.oraAbs (join b2 b1))
  | 0x0E => some (.aslAbs (join b2 b1))
  | 0x10 => some (.bpl b1)
  | 0x11 => some (.oraIzy b1)
  | 0x15 => some (.oraZpx b1)
  | 0x16 => some (.aslZpx b1)
  | 0x18 => some .clc
  | 0x19 => some (.oraAby (join b2 b1))
  | 0x1D => some (.oraAbx (join b2 b1))
  | 0x1E => some (.aslAbx (join b2 b1))
  | 0x20 => some (.jsr (join b2 b1))
  | 0x21 => some (.andIzx b1)
  | 0x24 => some (.bitZp b1)
  | 0x25 => some (.andZp b1)
  | 0x26 => some (.rolZp b1)
  | 0x28 => some .plp
  | 0x29 => some (.andImm b1)
  | 0x2A => some .rolAcc
  | 0x2C => some (.bitAbs (join b2 b1))
  | 0x2D => some (.andAbs (join b2 b1))
  | 0x2E => some (.rolAbs (join b2 b1))
  | 0x30 => some (.bmi b1)
  | 0x31 => some (.andIzy b1)
  | 0x35 => some (.andZpx b1)
  | 0x36 => some (.rolZpx b1)
  | 0x38 => some .sec
  | 0x39 => some (.andAby (join b2 b1))
  | 0x3D => some (.andAbx (join b2 b1))
  | 0x3E => some (.rolAbx (join b2 b1))
  | 0x40 => some .rti
  | 0x41 => some (.eorIzx b1)
  | 0x45 => some (.eorZp b1)
  | 0x46 => some (.lsrZp b1)
  | 0x48 => some .pha
  | 0x49 => some (.eorImm b1)
  | 0x4A => some .lsrAcc
  | 0x4C => some (.jmpAbs (join b2 b1))
  | 0x4D => some (.eorAbs (join b2 b1))
  | 0x4E => some (.lsrAbs (join b2 b1))
  | 0x50 => some (.bvc b1)
  | 0x51 => some (.eorIzy b1)
  | 0x55 => some (.eorZpx b1)
  | 0x56 => some (.lsrZpx b1)
  | 0x58 => some .cli
  | 0x59 => some (.eorAby (join b2 b1))
  | 0x5D => some (.eorAbx (join b2 b1))
  | 0x5E => some (.lsrAbx (join b2 b1))
  | 0x60 => some .rts
  | 0x61 => some (.adcIzx b1)
  | 0x65 => some (.adcZp b1)
  | 0x66 => some (.rorZp b1)
  | 0x68 => some .pla
  | 0x69 => some (.adcImm b1)
  | 0x6A => some .rorAcc
  | 0x6C => some (.jmpInd (join b2 b1))
  | 0x6D => some (.adcAbs (join b2 b1))
  | 0x6E => some (.rorAbs (join b2 b1))
  | 0x70 => some (.bvs b1)
  | 0x71 => some (.adcIzy b1)
  | 0x75 => some (.adcZpx b1)
  | 0x76 => some (.rorZpx b1)
  | 0x78 => some .sei
  | 0x79 => some (.adcAby (join b2 b1))
  | 0x7D => some (.adcAbx (join b2 b1))
  | 0x7E => some (.rorAbx (join b2 b1))
  | 0x81 => some (.staIzx b1)
  | 0x84 => some (.styZp b1)
  | 0x85 => some (.staZp b1)
  | 0x86 => some (.stxZp b1)
  | 0x88 => some .dey
  | 0x8A => some .txa
  | 0x8C => some (.styAbs (join b2 b1))
  | 0x8D => some (.staAbs (join b2 b1))
  | 0x8E => some (.stxAbs (join b2 b1))
  | 0x90 => some (.bcc b1)
  | 0x91 => some (.staIzy b1)
  | 0x94 => some (.styZpx b1)
  | 0x95 => some (.staZpx b1)
  | 0x96 => some (.stxZpy b1)
  | 0x98 => some .tya
  | 0x99 => some (.staAby (join b2 b1))
  | 0x9A => some .txs
  | 0x9D => some (.staAbx (join b2 b1))
  | 0xA0 => some (.ldyImm b1)
  | 0xA1 => some (.ldaIzx b1)
  | 0xA2 => some (.ldxImm b1)
  | 0xA4 => some (.ldyZp b1)
  | 0xA5 => some (.ldaZp b1)
  | 0xA6 => some (.ldxZp b1)
  | 0xA8 => some .tay
  | 0xA9 => some (.ldaImm b1)
  | 0xAA => some .tax
  | 0xAC => some (.ldyAbs (join b2 b1))
  | 0xAD => some (.ldaAbs (join b2 b1))
  | 0xAE => some (.ldxAbs (join b2 b1))
  | 0xB0 => some (.bcs b1)
  | 0xB1 => some (.ldaIzy b1)
  | 0xB4 => some (.ldyZpx b1)
  | 0xB5 => some (.ldaZpx b1)
  | 0xB6 => some (.ldxZpy b1)
  | 0xB8 => some .clv
  | 0xB9 => some (.ldaAby (join b2 b1))
  | 0xBA => some .tsx
  | 0xBC => some (.ldyAbx (join b2 b1))
  | 0xBD => some (.ldaAbx (join b2 b1))
  | 0xBE => some (.ldxAby (join b2 b1))
  | 0xC0 => some (.cpyImm b1)
  | 0xC1 => some (.cmpIzx b1)
  | 0xC4 => some (.cpyZp b1)
  | 0xC5 => some (.cmpZp b1)
  | 0xC6 => some (.decZp b1)
  | 0xC8 => some .iny
  | 0xC9 => some (.cmpImm b1)
  | 0xCA => some .dex
  | 0xCC => some (.cpyAbs (join b2 b1))
  | 0xCD => some (.cmpAbs (join b2 b1))
  | 0xCE => some (.decAbs (join b2 b1))
  | 0xD0 => some (.bne b1)
  | 0xD1 => some (.cmpIzy b1)
  | 0xD5 => some (.cmpZpx b1)
  | 0xD6 => some (.decZpx b1)
  | 0xD8 => some .cld
  | 0xD9 => some (.cmpAby (join b2 b1))
  | 0xDD => some (.cmpAbx (join b2 b1))
  | 0xDE => some (.decAbx (join b2 b1))
  | 0xE0 => some (.cpxImm b1)
  | 0xE1 => some (.sbcIzx b1)
  | 0xE4 => some (.cpxZp b1)
  | 0xE5 => some (.sbcZp b1)
  | 0xE6 => some (.incZp b1)
  | 0xE8 => some .inx
  | 0xE9 => some (.sbcImm b1)
  | 0xEA => some .nop
  | 0xEC => some (.cpxAbs (join b2 b1))
  | 0xED => some (.sbcAbs (join b2 b1))
  | 0xEE => some (.incAbs (join b2 b1))
  | 0xF0 => some (.beq b1)
  | 0xF1 => some (.sbcIzy b1)
  | 0xF5 => some (.sbcZpx b1)
  | 0xF6 => some (.incZpx b1)
  | 0xF8 => some .sed
  | 0xF9 => some (.sbcAby (join b2 b1))
  | 0xFD => some (.sbcAbx (join b2 b1))
  | 0xFE => some (.incAbx (join b2 b1))
  | _ => none

/-- Why the decoder refuses bytes. -/
inductive DecodeError where
  /-- There is no byte to decode. -/
  | noBytes
  /-- The opcode byte has no metadata entry (R77). -/
  | unassigned (opcode : Byte)
  /-- The bytes end before the instruction's last operand byte (R70). -/
  | truncated (opcode : Byte)
  deriving DecidableEq, Repr

/-- The instruction of complete bytes, with the bytes after it. -/
def decodeAs (op b1 b2 : Byte) (rest : List Byte) : Except DecodeError (Instr × List Byte) :=
  match assemble op b1 b2 with
  | some i => .ok (i, rest)
  | none => .error (.unassigned op)

/-- The decoder, total on any bytes (R70): the opcode byte selects the entry, the entry's length says how many operand
bytes follow, at ascending addresses. It answers the instruction and the bytes after it. -/
def decode (bytes : List Byte) : Except DecodeError (Instr × List Byte) :=
  match bytes with
  | [] => .error .noBytes
  | op :: rest =>
    match metaOf op with
    | none => .error (.unassigned op)
    | some e =>
      match e.len, rest with
      | 1, rest => decodeAs op 0#8 0#8 rest
      | 2, b1 :: rest => decodeAs op b1 0#8 rest
      | 3, b1 :: b2 :: rest => decodeAs op b1 b2 rest
      | _, _ => .error (.truncated op)

/-- The bytes of an instruction (R71, R72): the opcode byte, then the operand, a 16-bit operand low byte first. -/
def encode : Instr → List Byte
  | .brk => [0x00#8]
  | .oraIzx b => [0x01#8, b]
  | .oraZp b => [0x05#8, b]
  | .aslZp b => [0x06#8, b]
  | .php => [0x08#8]
  | .oraImm b => [0x09#8, b]
  | .aslAcc => [0x0A#8]
  | .oraAbs w => [0x0D#8, lo w, hi w]
  | .aslAbs w => [0x0E#8, lo w, hi w]
  | .bpl b => [0x10#8, b]
  | .oraIzy b => [0x11#8, b]
  | .oraZpx b => [0x15#8, b]
  | .aslZpx b => [0x16#8, b]
  | .clc => [0x18#8]
  | .oraAby w => [0x19#8, lo w, hi w]
  | .oraAbx w => [0x1D#8, lo w, hi w]
  | .aslAbx w => [0x1E#8, lo w, hi w]
  | .jsr w => [0x20#8, lo w, hi w]
  | .andIzx b => [0x21#8, b]
  | .bitZp b => [0x24#8, b]
  | .andZp b => [0x25#8, b]
  | .rolZp b => [0x26#8, b]
  | .plp => [0x28#8]
  | .andImm b => [0x29#8, b]
  | .rolAcc => [0x2A#8]
  | .bitAbs w => [0x2C#8, lo w, hi w]
  | .andAbs w => [0x2D#8, lo w, hi w]
  | .rolAbs w => [0x2E#8, lo w, hi w]
  | .bmi b => [0x30#8, b]
  | .andIzy b => [0x31#8, b]
  | .andZpx b => [0x35#8, b]
  | .rolZpx b => [0x36#8, b]
  | .sec => [0x38#8]
  | .andAby w => [0x39#8, lo w, hi w]
  | .andAbx w => [0x3D#8, lo w, hi w]
  | .rolAbx w => [0x3E#8, lo w, hi w]
  | .rti => [0x40#8]
  | .eorIzx b => [0x41#8, b]
  | .eorZp b => [0x45#8, b]
  | .lsrZp b => [0x46#8, b]
  | .pha => [0x48#8]
  | .eorImm b => [0x49#8, b]
  | .lsrAcc => [0x4A#8]
  | .jmpAbs w => [0x4C#8, lo w, hi w]
  | .eorAbs w => [0x4D#8, lo w, hi w]
  | .lsrAbs w => [0x4E#8, lo w, hi w]
  | .bvc b => [0x50#8, b]
  | .eorIzy b => [0x51#8, b]
  | .eorZpx b => [0x55#8, b]
  | .lsrZpx b => [0x56#8, b]
  | .cli => [0x58#8]
  | .eorAby w => [0x59#8, lo w, hi w]
  | .eorAbx w => [0x5D#8, lo w, hi w]
  | .lsrAbx w => [0x5E#8, lo w, hi w]
  | .rts => [0x60#8]
  | .adcIzx b => [0x61#8, b]
  | .adcZp b => [0x65#8, b]
  | .rorZp b => [0x66#8, b]
  | .pla => [0x68#8]
  | .adcImm b => [0x69#8, b]
  | .rorAcc => [0x6A#8]
  | .jmpInd w => [0x6C#8, lo w, hi w]
  | .adcAbs w => [0x6D#8, lo w, hi w]
  | .rorAbs w => [0x6E#8, lo w, hi w]
  | .bvs b => [0x70#8, b]
  | .adcIzy b => [0x71#8, b]
  | .adcZpx b => [0x75#8, b]
  | .rorZpx b => [0x76#8, b]
  | .sei => [0x78#8]
  | .adcAby w => [0x79#8, lo w, hi w]
  | .adcAbx w => [0x7D#8, lo w, hi w]
  | .rorAbx w => [0x7E#8, lo w, hi w]
  | .staIzx b => [0x81#8, b]
  | .styZp b => [0x84#8, b]
  | .staZp b => [0x85#8, b]
  | .stxZp b => [0x86#8, b]
  | .dey => [0x88#8]
  | .txa => [0x8A#8]
  | .styAbs w => [0x8C#8, lo w, hi w]
  | .staAbs w => [0x8D#8, lo w, hi w]
  | .stxAbs w => [0x8E#8, lo w, hi w]
  | .bcc b => [0x90#8, b]
  | .staIzy b => [0x91#8, b]
  | .styZpx b => [0x94#8, b]
  | .staZpx b => [0x95#8, b]
  | .stxZpy b => [0x96#8, b]
  | .tya => [0x98#8]
  | .staAby w => [0x99#8, lo w, hi w]
  | .txs => [0x9A#8]
  | .staAbx w => [0x9D#8, lo w, hi w]
  | .ldyImm b => [0xA0#8, b]
  | .ldaIzx b => [0xA1#8, b]
  | .ldxImm b => [0xA2#8, b]
  | .ldyZp b => [0xA4#8, b]
  | .ldaZp b => [0xA5#8, b]
  | .ldxZp b => [0xA6#8, b]
  | .tay => [0xA8#8]
  | .ldaImm b => [0xA9#8, b]
  | .tax => [0xAA#8]
  | .ldyAbs w => [0xAC#8, lo w, hi w]
  | .ldaAbs w => [0xAD#8, lo w, hi w]
  | .ldxAbs w => [0xAE#8, lo w, hi w]
  | .bcs b => [0xB0#8, b]
  | .ldaIzy b => [0xB1#8, b]
  | .ldyZpx b => [0xB4#8, b]
  | .ldaZpx b => [0xB5#8, b]
  | .ldxZpy b => [0xB6#8, b]
  | .clv => [0xB8#8]
  | .ldaAby w => [0xB9#8, lo w, hi w]
  | .tsx => [0xBA#8]
  | .ldyAbx w => [0xBC#8, lo w, hi w]
  | .ldaAbx w => [0xBD#8, lo w, hi w]
  | .ldxAby w => [0xBE#8, lo w, hi w]
  | .cpyImm b => [0xC0#8, b]
  | .cmpIzx b => [0xC1#8, b]
  | .cpyZp b => [0xC4#8, b]
  | .cmpZp b => [0xC5#8, b]
  | .decZp b => [0xC6#8, b]
  | .iny => [0xC8#8]
  | .cmpImm b => [0xC9#8, b]
  | .dex => [0xCA#8]
  | .cpyAbs w => [0xCC#8, lo w, hi w]
  | .cmpAbs w => [0xCD#8, lo w, hi w]
  | .decAbs w => [0xCE#8, lo w, hi w]
  | .bne b => [0xD0#8, b]
  | .cmpIzy b => [0xD1#8, b]
  | .cmpZpx b => [0xD5#8, b]
  | .decZpx b => [0xD6#8, b]
  | .cld => [0xD8#8]
  | .cmpAby w => [0xD9#8, lo w, hi w]
  | .cmpAbx w => [0xDD#8, lo w, hi w]
  | .decAbx w => [0xDE#8, lo w, hi w]
  | .cpxImm b => [0xE0#8, b]
  | .sbcIzx b => [0xE1#8, b]
  | .cpxZp b => [0xE4#8, b]
  | .sbcZp b => [0xE5#8, b]
  | .incZp b => [0xE6#8, b]
  | .inx => [0xE8#8]
  | .sbcImm b => [0xE9#8, b]
  | .nop => [0xEA#8]
  | .cpxAbs w => [0xEC#8, lo w, hi w]
  | .sbcAbs w => [0xED#8, lo w, hi w]
  | .incAbs w => [0xEE#8, lo w, hi w]
  | .beq b => [0xF0#8, b]
  | .sbcIzy b => [0xF1#8, b]
  | .sbcZpx b => [0xF5#8, b]
  | .incZpx b => [0xF6#8, b]
  | .sed => [0xF8#8]
  | .sbcAby w => [0xF9#8, lo w, hi w]
  | .sbcAbx w => [0xFD#8, lo w, hi w]
  | .incAbx w => [0xFE#8, lo w, hi w]

/-- The opcode byte of an instruction (R71, byte 0). -/
def Instr.opcode (i : Instr) : Byte := (encode i).headD 0#8

/-- The three bytes of a table word as the hardware stores them, the first at the lowest address; every bit at or above
`nbits` is 0. -/
def tableWordBytes (nbits w : Nat) : List Byte :=
  let v := w % 2 ^ nbits
  [BitVec.ofNat 8 v, BitVec.ofNat 8 (v / 256), BitVec.ofNat 8 (v / 65536)]

/-- The instruction the decoder reads from a word of the opcode table, bit 0 the least significant bit of the first byte. -/
def decodeTableWord (nbits w : Nat) : Option Instr :=
  match decode (tableWordBytes nbits w) with
  | .ok r => some r.1
  | .error _ => none

end Sys2Proof
end

