-- ==== Sys2Proof/Machine/Fetch.lean ====
section
/-!
DEFINITION. Fetching an instruction (spec/41_execution_loop.md R111 to R113, spec/20_memory.md R61): the opcode byte at
`PC`, the lookup, then the operand bytes in ascending address order, all ordinary bus reads.
-/
namespace Sys2Proof.Machine

/-- The fetch of the opcode byte (R112). -/
def fetchOpcode (s : State) : Res (Byte × State) := memRead s.cpu.pc s

/-- The instruction of the fetched bytes; a byte the table does not know is `InvalidOpcode` (R113, R310). -/
def fetched (op b1 b2 : Byte) (s : State) : Res (Instr × State) :=
  match assemble op b1 b2 with
  | some i => .next (i, s)
  | none => .fault (.invalidOpcode s.cpu.pc op s)

/-- The operand bytes of an instruction of length `len`, at `PC +16 1` and `PC +16 2` (R61, R71). -/
def fetchOperands (op : Byte) (len : Nat) (s : State) : Res (Instr × State) :=
  if len = 1 then fetched op 0#8 0#8 s
  else
    chain (memRead (s.cpu.pc + 1#16) s) fun b1 =>
    if len = 2 then fetched op b1.1 0#8 b1.2
    else
      chain (memRead (s.cpu.pc + 2#16) b1.2) fun b2 =>
      fetched op b1.1 b2.1 b2.2

/-- Fetch and lookup: an unknown byte is the fault `InvalidOpcode`, with no operand byte read (R113). -/
def fetch (s : State) : Res (Instr × State) :=
  chain (fetchOpcode s) fun r =>
  match metaOf r.1 with
  | none => .fault (.invalidOpcode s.cpu.pc r.1 r.2)
  | some e => fetchOperands r.1 e.len r.2

/-- Writes a byte where a read of the address finds it: RAM or `PRG`; a port or an unmapped address holds none. It is the
host's loading of memory (spec/70_reset_and_hazards.md R344), no bus write. -/
def pokeByte (a : Word) (v : Byte) (s : State) : State :=
  match route s.session a with
  | .ram cell => s.setRam (Memory.write s.ram cell v)
  | .prg cell => { s with session := { s.session with prg := Memory.write s.session.prg cell v } }
  | .controlPort => s
  | .addressPort => s
  | .dataPort => s
  | .ppuRegister => s
  | .unmapped => s

/-- The bytes of an image, poked at `a` and up, mod 65536. -/
def pokeBytes (a : Word) (image : List Byte) (s : State) : State :=
  match image with
  | [] => s
  | b :: rest => pokeBytes (a + 1#16) rest (pokeByte a b s)

/-- A state whose next step runs the instruction at `PC`: an event that would be due instead is withdrawn. -/
def withdrawEvents (s : State) : State :=
  if dueEvent s = .instruction then s
  else { s.setNmiPending false with inputs := Boundary.idle :: s.inputs.tail }

end Sys2Proof.Machine
end

