-- ==== Sys2Proof/Machine/Step.lean ====
section
/-!
DEFINITION. One step of the machine (spec/41_execution_loop.md R110, R111) and the host's placing of one instruction.
-/
namespace Sys2Proof.Machine
open Sys2Proof

/-- One step (R111): what is due at the boundary (spec/60_exceptions.md R321), else fetch and execute; a step that faults
is abandoned with the CPU registers of its start (R116). -/
def step (s : State) : Host.Outcome State Fault Refusal :=
  match dueEvent s with
  | .reset => hostReset (passBoundary s)
  | .nmi => takeNmi (passBoundary s)
  | .irq => takeIrq (passBoundary s)
  | .instruction => abandon s.cpu (chain (fetch (passBoundary s)) fun r => exec r.1 r.2)

/-- The state with the instruction of a table word stored where `step` fetches next, so that `step` runs exactly it
(log entry 12). -/
def State.withFetchWord (s : State) (nbits w : Nat) : State :=
  withdrawEvents (pokeBytes s.cpu.pc (tableWordBytes nbits w) s)

end Sys2Proof.Machine
end

