-- ==== Sys2Proof/Machine/Tracer.lean ====
section
/-!
DEFINITION. The execution tracer (spec/47_tracer.md): a pure function of a register snapshot, the opcode byte and a
side-effect-free look at memory, answering one line of text as a list of characters.
-/
namespace Sys2Proof.Machine

/-- What the hook and the tracer are given (spec/41_execution_loop.md R114, R230): the registers before the instruction
executes, `pc` the address of the opcode byte, the opcode byte, and `Peek`. -/
structure HookView where
  a : Byte
  x : Byte
  y : Byte
  sp : Byte
  p : Byte
  pc : Word
  opcode : Byte
  look : Word → Byte

/-- One upper-case hexadecimal digit (R233); the digit of `n mod 16`. -/
def hexDigit (n : Nat) : Char :=
  ['0', '1', '2', '3', '4', '5', '6', '7', '8', '9', 'A', 'B', 'C', 'D', 'E', 'F'].getD (n % 16) '0'

/-- `HEX2(v)` (R233). -/
def hex2 (v : Byte) : List Char := [hexDigit (v.toNat / 16), hexDigit v.toNat]

/-- `HEX4(v)` (R233). -/
def hex4 (w : Word) : List Char := hex2 (hi w) ++ hex2 (lo w)

/-- `PADRIGHT(s, n)` (R232). -/
def padRight (s : List Char) (n : Nat) : List Char := s ++ List.replicate (n - s.length) ' '

/-- `PADLEFT(s, n)` (R232). -/
def padLeft (s : List Char) (n : Nat) : List Char := List.replicate (n - s.length) ' ' ++ s

/-- `RTRIM(s)` (R232, R253): the trailing spaces removed. -/
def rightTrim (s : List Char) : List Char :=
  match s with
  | [] => []
  | c :: rest =>
    match rightTrim rest with
    | [] => if c = ' ' then [] else [c]
    | d :: more => c :: d :: more

/-- ` = VV` (R238). -/
def valueText (v : Byte) : List Char := [' ', '=', ' '] ++ hex2 v

/-- The operand text of a mode with an operand (R239 to R247): `ea` is `TEA`, `v` the byte there. -/
def memoryText (h : HookView) (op : Operand) (ea : Word) (v : Byte) : List Char :=
  match op with
  | .imm b => ['#', '$'] ++ hex2 b
  | .zp b => ['$'] ++ hex2 b ++ valueText v
  | .zpx b => ['$'] ++ hex2 b ++ [',', 'X', ' ', '@', ' '] ++ hex2 (lo ea) ++ valueText v
  | .zpy b => ['$'] ++ hex2 b ++ [',', 'Y', ' ', '@', ' '] ++ hex2 (lo ea) ++ valueText v
  | .abs _ => ['$'] ++ hex4 ea ++ valueText v
  | .abx _ => ['$'] ++ hex4 (ea - zext h.x) ++ [',', 'X', ' ', '@', ' '] ++ hex4 ea ++ valueText v
  | .aby _ => ['$'] ++ hex4 (ea - zext h.y) ++ [',', 'Y', ' ', '@', ' '] ++ hex4 ea ++ valueText v
  | .izx b =>
    ['(', '$'] ++ hex2 b ++ [',', 'X', ')', ' ', '@', ' '] ++ hex2 (b + h.x) ++ [' ', '=', ' '] ++ hex4 ea ++ valueText v
  | .izy b =>
    ['(', '$'] ++ hex2 b ++ [')', ',', 'Y', ' ', '=', ' '] ++ hex4 (ea - zext h.y) ++ [' ', '@', ' '] ++ hex4 ea ++ valueText v

/-- The operand text of the mode `None` (R248 to R252), by length and opcode byte. -/
def noneText (h : HookView) (len : Nat) (b1 b2 : Byte) : List Char :=
  if len = 1 then
    if h.opcode ∈ [0x0A#8, 0x2A#8, 0x4A#8, 0x6A#8] then Config.accMarker else []
  else if len = 2 then ['$'] ++ hex4 ((h.pc + 2#16) + sext b1)
  else if h.opcode = 0x6C#8 then ['(', '$'] ++ hex4 (join b2 b1) ++ [')']
  else ['$'] ++ hex4 (join b2 b1)

/-- The operand text of a known opcode (R237): by the mode first, then by length and opcode for the mode `None`. -/
def operandText (h : HookView) (e : MetaEntry) : List Char :=
  let b1 := h.look (h.pc + 1#16)
  let b2 := h.look (h.pc + 2#16)
  match operandOf e.mode b1 b2 with
  | some op =>
    let ea := addressBy h.look h.x h.y (h.pc + 1#16) op
    memoryText h op ea (h.look ea)
  | none => noneText h e.len b1 b2

/-- The byte dump of an instruction of length `len` (R235). -/
def byteDump (h : HookView) (len : Nat) : List Char :=
  let b0 := hex2 (h.look h.pc)
  let b1 := hex2 (h.look (h.pc + 1#16))
  let b2 := hex2 (h.look (h.pc + 2#16))
  if len = 1 then b0 else if len = 2 then b0 ++ [' '] ++ b1 else b0 ++ [' '] ++ b1 ++ [' '] ++ b2

/-- The register suffix (R255): 25 characters. -/
def registerSuffix (h : HookView) : List Char :=
  ['A', ':'] ++ hex2 h.a ++ [' ', 'X', ':'] ++ hex2 h.x ++ [' ', 'Y', ':'] ++ hex2 h.y ++
    [' ', 'P', ':'] ++ hex2 h.p ++ [' ', 'S', 'P', ':'] ++ hex2 h.sp

/-- The left part before trimming (R232). -/
def leftPart (pc : Word) (dump mnemonic operand : List Char) : List Char :=
  hex4 pc ++ [' ', ' '] ++ padRight dump 8 ++ [' '] ++ padLeft mnemonic 4 ++ [' '] ++ operand

/-- The line of a left part (R232, R253): trimmed, padded to 47 characters, one space, the suffix. -/
def traceLine (h : HookView) (left : List Char) : List Char :=
  padRight (rightTrim left) Config.tracePad ++ [' '] ++ registerSuffix h

/-- The tracer (R257): the line of a known opcode, or the placeholder line of an unknown one (R256). -/
def trace (h : HookView) : List Char :=
  match metaOf h.opcode with
  | none => traceLine h (leftPart h.pc (hex2 h.opcode) Config.unknownMnemonic [])
  | some e => traceLine h (leftPart h.pc (byteDump h e.len) e.mnemonic.text (operandText h e))

end Sys2Proof.Machine
end

