-- ==== Sys2Proof/Machine/Hook.lean ====
section
/-!
DEFINITION. The per-instruction hook (spec/41_execution_loop.md R114, R115) and a run with its log. A hook is a function
of a read-only view, so a hook that mutates state cannot be written (D13, log entry 10); its results are the host's and
no part of the state (spec/10_state.md R28).
-/
namespace Sys2Proof.Machine

/-- The view of a state whose opcode byte has been fetched: the registers, the byte, and `Peek`. -/
def hookView (opcode : Byte) (s : State) : HookView :=
  { a := s.cpu.a, x := s.cpu.x, y := s.cpu.y, sp := s.cpu.sp, p := s.cpu.p, pc := s.cpu.pc, opcode := opcode,
    look := peek s }

/-- The hook's call in the instruction part of a step, after the fetch of the opcode byte and the lookup: none when the
fetch stops or the byte is unknown (R113, R114). -/
def instructionHookCall (s : State) : Option HookView :=
  match fetchOpcode s with
  | .next r => (metaOf r.1).map (fun _ => hookView r.1 r.2)
  | .fault _ => none
  | .refused _ => none

/-- The hook's call in a step: none when a reset or an interrupt is taken (R114, spec/70_reset_and_hazards.md R342). -/
def hookCall (s : State) : Option HookView :=
  match dueEvent s with
  | .reset => none
  | .nmi => none
  | .irq => none
  | .instruction => instructionHookCall (passBoundary s)

/-- One step with a hook installed: what the hook answered, if it was called, and the step's outcome. -/
def stepHooked {α : Type} (hook : HookView → α) (s : State) : Option α × Host.Outcome State Fault Refusal :=
  ((hookCall s).map hook, step s)

/-- `k` steps with a hook installed: its answers in order, and the outcome (R119). -/
def runHooked {α : Type} (hook : HookView → α) (k : Nat) (s : State) : List α × Host.Outcome State Fault Refusal :=
  match k with
  | 0 => ([], .next s)
  | k + 1 =>
    let r := stepHooked hook s
    match r.2 with
    | .next t => let q := runHooked hook k t; (r.1.toList ++ q.1, q.2)
    | .fault f => (r.1.toList, .fault f)
    | .refused q => (r.1.toList, .refused q)

/-- The line the host gets when it calls the tracer for an unknown byte after `InvalidOpcode` (R113, R256). -/
def placeholderLine (pc : Word) (byte : Byte) (left : State) : List Char :=
  trace { hookView byte left with pc := pc }

end Sys2Proof.Machine
end

