-- ==== Sys2Proof/Machine/Session.lean ====
section
/-!
DEFINITION. The host's operations outside a step: constructing a session (spec/10_state.md R26, spec/70_reset_and_hazards.md
R344), driving the inputs, resetting the address toggle (spec/48_ppu_vram_controller.md R275).
-/
namespace Sys2Proof.Machine

/-- The mirroring a cartridge can name (spec/10_state.md R26). -/
inductive CartridgeMirroring where
  | horizontal | vertical | fourScreen
  deriving DecidableEq, Repr

/-- The session of a cartridge; FourScreen is refused (D27, spec/93_implementation_defined.md U6). Bytes past the size of
`CHR` or `PRG` are not taken. -/
def constructSession (bus : BusKind) (mirroring : CartridgeMirroring) (chr : List Byte) (prgSize : PrgSize)
    (prg : List Byte) : Res Session :=
  let build (m : Mirroring) : Session :=
    { bus := bus, mirroring := m, chr := Memory.load [] 0 (chr.take Config.chrSize), prgSize := prgSize,
      prg := Memory.load [] 0 (prg.take prgSize.bytes) }
  match mirroring with
  | .horizontal => .next (build .horizontal)
  | .vertical => .next (build .vertical)
  | .fourScreen => .refused .fourScreen

/-- A fresh session with memory loaded, before `Reset()` (R344). -/
def freshState (session : Session) (ram : Memory) : State :=
  { cpu := Cpu.atReset 0x0000#16, ppu := Ppu.atReset, ram := ram, session := session, inputs := [] }

/-- The machine of a cartridge after `Reset()` (R340, R344). -/
def powerOn (session : Session) (ram : Memory) : Res State := hostReset (freshState session ram)

/-- The state with what the host drives at the coming boundaries (spec/60_exceptions.md R314). -/
def State.drive (inputs : List Boundary) (s : State) : State := { s with inputs := inputs }

/-- The host operation `reset_address_toggle()` (spec/48_ppu_vram_controller.md R275). -/
def hostResetToggle (s : State) : State := s.setPpu (resetAddressToggle s.ppu)

end Sys2Proof.Machine
end

