-- ==== Sys2Proof/Safety.lean ====
section
/-!
DEFINITION. The terms the claims use: which bus accesses answer and what they leave, the legal states (spec/70_reset_and_hazards.md
R343), the forms of every instruction with an operand (spec/30_encoding.md R76), and port sequences.
-/
namespace Sys2Proof.Safety
open Sys2Proof Sys2Proof.Machine

/-! ## Bus accesses -/

/-- An address whose byte is stored in RAM or `PRG`: a read of it has no side effect (spec/20_memory.md R48). -/
def plain (s : State) (a : Word) : Bool :=
  match route s.session a with
  | .ram _ => true
  | .prg _ => true
  | .controlPort => false
  | .addressPort => false
  | .dataPort => false
  | .ppuRegister => false
  | .unmapped => false

/-- The latch holds an address that a data-port access faults on (spec/60_exceptions.md R311). -/
def latchFaults (u : Ppu) : Bool :=
  (decide (0x3000#16 ≤ u.addr) && decide (u.addr ≤ 0x3EFF#16)) || decide (0x3FFF#16 < u.addr)

/-- A bus read of the address answers (spec/20_memory.md R55, R56). -/
def readable (s : State) (a : Word) : Bool :=
  match route s.session a with
  | .ram _ => true
  | .prg _ => true
  | .dataPort => !latchFaults s.ppu
  | .controlPort => false
  | .addressPort => false
  | .ppuRegister => false
  | .unmapped => false

/-- A bus write of the address answers (R55, R56). -/
def writable (s : State) (a : Word) : Bool :=
  match route s.session a with
  | .ram _ => true
  | .controlPort => true
  | .addressPort => true
  | .dataPort => !latchFaults s.ppu
  | .prg _ => false
  | .ppuRegister => false
  | .unmapped => false

/-- The state after a bus read that answers: the data port moves, nothing else (R48). -/
def afterRead (s : State) (a : Word) : State :=
  match route s.session a with
  | .dataPort => s.setPpu ((readDataPort s.session s.ppu).elim s.ppu (fun r => r.2))
  | .ram _ => s
  | .prg _ => s
  | .controlPort => s
  | .addressPort => s
  | .ppuRegister => s
  | .unmapped => s

/-- The state after a bus write of `v` that answers (R48). -/
def afterWrite (s : State) (a : Word) (v : Byte) : State :=
  match route s.session a with
  | .ram cell => s.setRam (Memory.write s.ram cell v)
  | .controlPort => s.setPpu (writeControlPort v s.ppu)
  | .addressPort => s.setPpu (writeAddressPort v s.ppu)
  | .dataPort => s.setPpu ((writeDataPort s.session v s.ppu).getD s.ppu)
  | .prg _ => s
  | .ppuRegister => s
  | .unmapped => s

/-- The operand of an instruction can be read. -/
def operandReadable (op : Operand) (s : State) : Bool :=
  match op with
  | .imm _ => true
  | op => readable s (peekAddress op s)

/-- The operand byte: the immediate, or what a read of the effective address returns (spec/20_memory.md R46). -/
def operandByte (op : Operand) (s : State) : Byte :=
  match op with
  | .imm b => b
  | op => peek s (peekAddress op s)

/-- The state after the operand has been read. -/
def operandAfter (op : Operand) (s : State) : State :=
  match op with
  | .imm _ => s
  | op => afterRead s (peekAddress op s)

/-- The operand can be read and, after that read, written (spec/44_shift_inc_dec.md R170). -/
def operandModifiable (op : Operand) (s : State) : Bool :=
  readable s (peekAddress op s) && writable (afterRead s (peekAddress op s)) (peekAddress op s)

/-- The RAM cell of a stack address: the stack page is RAM under both maps (spec/10_state.md R14). -/
def stackCell (sp : Byte) : Nat := 0x0100 + sp.toNat

/-- The state a fault leaves to the host. -/
def faultLeft (f : Fault) : State :=
  match f with
  | .invalidOpcode _ _ t => t
  | .invalidAddressSpace _ t => t

/-- The bytes of an instruction stand at `PC`, in RAM or `PRG`. -/
def standsAtPc (i : Instr) (s : State) : Prop :=
  ∀ k, k < (encode i).length →
    plain s (s.cpu.pc + BitVec.ofNat 16 k) = true ∧ (encode i)[k]? = some (peek s (s.cpu.pc + BitVec.ofNat 16 k))

/-- The 105 opcode bytes without a metadata entry (spec/30_encoding.md R77). -/
def unassignedBytes : List Byte :=
  [0x02#8, 0x03#8, 0x04#8, 0x07#8, 0x0B#8, 0x0C#8, 0x0F#8, 0x12#8, 0x13#8, 0x14#8, 0x17#8, 0x1A#8, 0x1B#8, 0x1C#8, 0x1F#8, 0x22#8, 0x23#8, 0x27#8, 0x2B#8, 0x2F#8, 0x32#8, 0x33#8, 0x34#8, 0x37#8, 0x3A#8, 0x3B#8, 0x3C#8, 0x3F#8] ++
  [0x42#8, 0x43#8, 0x44#8, 0x47#8, 0x4B#8, 0x4F#8, 0x52#8, 0x53#8, 0x54#8, 0x57#8, 0x5A#8, 0x5B#8, 0x5C#8, 0x5F#8, 0x62#8, 0x63#8, 0x64#8, 0x67#8, 0x6B#8, 0x6F#8, 0x72#8, 0x73#8, 0x74#8, 0x77#8, 0x7A#8, 0x7B#8, 0x7C#8, 0x7F#8] ++
  [0x80#8, 0x82#8, 0x83#8, 0x87#8, 0x89#8, 0x8B#8, 0x8F#8, 0x92#8, 0x93#8, 0x97#8, 0x9B#8, 0x9C#8, 0x9E#8, 0x9F#8, 0xA3#8, 0xA7#8, 0xAB#8, 0xAF#8, 0xB2#8, 0xB3#8, 0xB7#8, 0xBB#8, 0xBF#8, 0xC2#8, 0xC3#8, 0xC7#8, 0xCB#8, 0xCF#8] ++
  [0xD2#8, 0xD3#8, 0xD4#8, 0xD7#8, 0xDA#8, 0xDB#8, 0xDC#8, 0xDF#8, 0xE2#8, 0xE3#8, 0xE7#8, 0xEB#8, 0xEF#8, 0xF2#8, 0xF3#8, 0xF4#8, 0xF7#8, 0xFA#8, 0xFB#8, 0xFC#8, 0xFF#8]

/-! ## Legal states -/

/-- The size of the RAM behind a bus (spec/20_memory.md R55, R56). -/
def ramSize (k : Session) : Nat :=
  match k.bus with
  | .flat => Config.flatRamSize
  | .nes => Config.nesRamSize

/-- A memory in canonical form with every cell below `size`. -/
def memoryOk (size : Nat) (m : Memory) : Prop := Memory.wf m = true ∧ Memory.within size m = true

/-- The legal states (R343, spec/10_state.md R17, R21): the latch within the ceiling, `P.B = 0` and `P.U = 1`, every memory
in canonical form and within its size. -/
structure Legal (s : State) : Prop where
  latch : s.ppu.addr ≤ 0x3FFF#16
  brk : s.flag .brk = false
  unused : s.flag .unused = true
  ram : memoryOk (ramSize s.session) s.ram
  vram : memoryOk Config.vramSize s.ppu.vram
  palette : memoryOk Config.paletteSize s.ppu.palette
  oam : memoryOk Config.oamSize s.ppu.oam
  chr : memoryOk Config.chrSize s.session.chr
  prg : memoryOk s.session.prgSize.bytes s.session.prg

/-! ## Port sequences -/

/-- A port access other than a read that is buffered (spec/48_ppu_vram_controller.md R293). -/
inductive PortAccess where
  | address (b : Byte)
  | control (b : Byte)
  | write (b : Byte)
  | paletteRead
  deriving DecidableEq, Repr

/-- The PPU block after one such access; absent where it faults or where the read would be a buffered one. -/
def portAccess (k : Session) (u : Ppu) (c : PortAccess) : Option Ppu :=
  match c with
  | .address b => some (writeAddressPort b u)
  | .control b => some (writeControlPort b u)
  | .write b => writeDataPort k b u
  | .paletteRead => if 0x3F00#16 ≤ u.addr then (readDataPort k u).map (fun r => r.2) else none

/-- The PPU block after a sequence of such accesses. -/
def portAccesses (k : Session) (u : Ppu) (cs : List PortAccess) : Option Ppu :=
  match cs with
  | [] => some u
  | c :: rest => (portAccess k u c).bind (fun v => portAccesses k v rest)

/-! ## What an instruction leaves unchanged -/

/-- The 8-bit registers outside `written` are unchanged. -/
def regsKept (written : List Reg) (s t : State) : Prop := ∀ r, r ∉ written → t.reg r = s.reg r

/-- The flags outside `written` are unchanged. -/
def flagsKept (written : List Flag) (s t : State) : Prop := ∀ f, f ∉ written → t.flag f = s.flag f

/-- What no instruction writes: `nmi_pending`, the session constants, OAM, the host's inputs. -/
def restKept (s t : State) : Prop :=
  t.cpu.nmiPending = s.cpu.nmiPending ∧ t.session = s.session ∧ t.ppu.oam = s.ppu.oam ∧ t.inputs = s.inputs

/-- Outside the cell that the address `a` stores to, every byte of memory is unchanged. The cell is a RAM cell, or, when `a`
is the data port, the VRAM or palette cell the latch of `u` selects. -/
def memoryKeptBut (a : Word) (u : Ppu) (s t : State) : Prop :=
  (∀ n, route s.session a ≠ .ram n → Memory.read t.ram n = Memory.read s.ram n) ∧
  (∀ n, ¬(route s.session a = .dataPort ∧ ppuRegion u.addr = .nametable ∧ mirrorIndex s.session.mirroring u.addr = n) →
    Memory.read t.ppu.vram n = Memory.read s.ppu.vram n) ∧
  ∀ n, ¬(route s.session a = .dataPort ∧ ppuRegion u.addr = .palette ∧ paletteIndex u.addr = n) →
    Memory.read t.ppu.palette n = Memory.read s.ppu.palette n

/-! ## The forms of the instructions with an operand (R76): the instruction, its operand, its bytes -/

/-- One form of an instruction. -/
structure Form where
  instr : Instr
  operand : Operand
  bytes : List Byte
  deriving DecidableEq, Repr

/-- `LDA` (R131). -/
def ldaForms (b : Byte) (w : Word) : List Form :=
  [⟨.ldaIzx b, .izx b, [0xA1#8, b]⟩,
   ⟨.ldaZp b, .zp b, [0xA5#8, b]⟩,
   ⟨.ldaImm b, .imm b, [0xA9#8, b]⟩,
   ⟨.ldaAbs w, .abs w, [0xAD#8, lo w, hi w]⟩,
   ⟨.ldaIzy b, .izy b, [0xB1#8, b]⟩,
   ⟨.ldaZpx b, .zpx b, [0xB5#8, b]⟩,
   ⟨.ldaAby w, .aby w, [0xB9#8, lo w, hi w]⟩,
   ⟨.ldaAbx w, .abx w, [0xBD#8, lo w, hi w]⟩]

/-- `LDX` (R132). -/
def ldxForms (b : Byte) (w : Word) : List Form :=
  [⟨.ldxImm b, .imm b, [0xA2#8, b]⟩,
   ⟨.ldxZp b, .zp b, [0xA6#8, b]⟩,
   ⟨.ldxAbs w, .abs w, [0xAE#8, lo w, hi w]⟩,
   ⟨.ldxZpy b, .zpy b, [0xB6#8, b]⟩,
   ⟨.ldxAby w, .aby w, [0xBE#8, lo w, hi w]⟩]

/-- `LDY` (R133). -/
def ldyForms (b : Byte) (w : Word) : List Form :=
  [⟨.ldyImm b, .imm b, [0xA0#8, b]⟩,
   ⟨.ldyZp b, .zp b, [0xA4#8, b]⟩,
   ⟨.ldyAbs w, .abs w, [0xAC#8, lo w, hi w]⟩,
   ⟨.ldyZpx b, .zpx b, [0xB4#8, b]⟩,
   ⟨.ldyAbx w, .abx w, [0xBC#8, lo w, hi w]⟩]

/-- `STA` (R134). -/
def staForms (b : Byte) (w : Word) : List Form :=
  [⟨.staIzx b, .izx b, [0x81#8, b]⟩,
   ⟨.staZp b, .zp b, [0x85#8, b]⟩,
   ⟨.staAbs w, .abs w, [0x8D#8, lo w, hi w]⟩,
   ⟨.staIzy b, .izy b, [0x91#8, b]⟩,
   ⟨.staZpx b, .zpx b, [0x95#8, b]⟩,
   ⟨.staAby w, .aby w, [0x99#8, lo w, hi w]⟩,
   ⟨.staAbx w, .abx w, [0x9D#8, lo w, hi w]⟩]

/-- `STX` (R135). -/
def stxForms (b : Byte) (w : Word) : List Form :=
  [⟨.stxZp b, .zp b, [0x86#8, b]⟩,
   ⟨.stxAbs w, .abs w, [0x8E#8, lo w, hi w]⟩,
   ⟨.stxZpy b, .zpy b, [0x96#8, b]⟩]

/-- `STY` (R136). -/
def styForms (b : Byte) (w : Word) : List Form :=
  [⟨.styZp b, .zp b, [0x84#8, b]⟩,
   ⟨.styAbs w, .abs w, [0x8C#8, lo w, hi w]⟩,
   ⟨.styZpx b, .zpx b, [0x94#8, b]⟩]

/-- `ADC` (R152). -/
def adcForms (b : Byte) (w : Word) : List Form :=
  [⟨.adcIzx b, .izx b, [0x61#8, b]⟩,
   ⟨.adcZp b, .zp b, [0x65#8, b]⟩,
   ⟨.adcImm b, .imm b, [0x69#8, b]⟩,
   ⟨.adcAbs w, .abs w, [0x6D#8, lo w, hi w]⟩,
   ⟨.adcIzy b, .izy b, [0x71#8, b]⟩,
   ⟨.adcZpx b, .zpx b, [0x75#8, b]⟩,
   ⟨.adcAby w, .aby w, [0x79#8, lo w, hi w]⟩,
   ⟨.adcAbx w, .abx w, [0x7D#8, lo w, hi w]⟩]

/-- `SBC` (R153). -/
def sbcForms (b : Byte) (w : Word) : List Form :=
  [⟨.sbcIzx b, .izx b, [0xE1#8, b]⟩,
   ⟨.sbcZp b, .zp b, [0xE5#8, b]⟩,
   ⟨.sbcImm b, .imm b, [0xE9#8, b]⟩,
   ⟨.sbcAbs w, .abs w, [0xED#8, lo w, hi w]⟩,
   ⟨.sbcIzy b, .izy b, [0xF1#8, b]⟩,
   ⟨.sbcZpx b, .zpx b, [0xF5#8, b]⟩,
   ⟨.sbcAby w, .aby w, [0xF9#8, lo w, hi w]⟩,
   ⟨.sbcAbx w, .abx w, [0xFD#8, lo w, hi w]⟩]

/-- `AND` (R154). -/
def andForms (b : Byte) (w : Word) : List Form :=
  [⟨.andIzx b, .izx b, [0x21#8, b]⟩,
   ⟨.andZp b, .zp b, [0x25#8, b]⟩,
   ⟨.andImm b, .imm b, [0x29#8, b]⟩,
   ⟨.andAbs w, .abs w, [0x2D#8, lo w, hi w]⟩,
   ⟨.andIzy b, .izy b, [0x31#8, b]⟩,
   ⟨.andZpx b, .zpx b, [0x35#8, b]⟩,
   ⟨.andAby w, .aby w, [0x39#8, lo w, hi w]⟩,
   ⟨.andAbx w, .abx w, [0x3D#8, lo w, hi w]⟩]

/-- `ORA` (R155). -/
def oraForms (b : Byte) (w : Word) : List Form :=
  [⟨.oraIzx b, .izx b, [0x01#8, b]⟩,
   ⟨.oraZp b, .zp b, [0x05#8, b]⟩,
   ⟨.oraImm b, .imm b, [0x09#8, b]⟩,
   ⟨.oraAbs w, .abs w, [0x0D#8, lo w, hi w]⟩,
   ⟨.oraIzy b, .izy b, [0x11#8, b]⟩,
   ⟨.oraZpx b, .zpx b, [0x15#8, b]⟩,
   ⟨.oraAby w, .aby w, [0x19#8, lo w, hi w]⟩,
   ⟨.oraAbx w, .abx w, [0x1D#8, lo w, hi w]⟩]

/-- `EOR` (R156). -/
def eorForms (b : Byte) (w : Word) : List Form :=
  [⟨.eorIzx b, .izx b, [0x41#8, b]⟩,
   ⟨.eorZp b, .zp b, [0x45#8, b]⟩,
   ⟨.eorImm b, .imm b, [0x49#8, b]⟩,
   ⟨.eorAbs w, .abs w, [0x4D#8, lo w, hi w]⟩,
   ⟨.eorIzy b, .izy b, [0x51#8, b]⟩,
   ⟨.eorZpx b, .zpx b, [0x55#8, b]⟩,
   ⟨.eorAby w, .aby w, [0x59#8, lo w, hi w]⟩,
   ⟨.eorAbx w, .abx w, [0x5D#8, lo w, hi w]⟩]

/-- `CMP` (R157). -/
def cmpForms (b : Byte) (w : Word) : List Form :=
  [⟨.cmpIzx b, .izx b, [0xC1#8, b]⟩,
   ⟨.cmpZp b, .zp b, [0xC5#8, b]⟩,
   ⟨.cmpImm b, .imm b, [0xC9#8, b]⟩,
   ⟨.cmpAbs w, .abs w, [0xCD#8, lo w, hi w]⟩,
   ⟨.cmpIzy b, .izy b, [0xD1#8, b]⟩,
   ⟨.cmpZpx b, .zpx b, [0xD5#8, b]⟩,
   ⟨.cmpAby w, .aby w, [0xD9#8, lo w, hi w]⟩,
   ⟨.cmpAbx w, .abx w, [0xDD#8, lo w, hi w]⟩]

/-- `CPX` (R158). -/
def cpxForms (b : Byte) (w : Word) : List Form :=
  [⟨.cpxImm b, .imm b, [0xE0#8, b]⟩,
   ⟨.cpxZp b, .zp b, [0xE4#8, b]⟩,
   ⟨.cpxAbs w, .abs w, [0xEC#8, lo w, hi w]⟩]

/-- `CPY` (R159). -/
def cpyForms (b : Byte) (w : Word) : List Form :=
  [⟨.cpyImm b, .imm b, [0xC0#8, b]⟩,
   ⟨.cpyZp b, .zp b, [0xC4#8, b]⟩,
   ⟨.cpyAbs w, .abs w, [0xCC#8, lo w, hi w]⟩]

/-- `BIT` (R160). -/
def bitForms (b : Byte) (w : Word) : List Form :=
  [⟨.bitZp b, .zp b, [0x24#8, b]⟩,
   ⟨.bitAbs w, .abs w, [0x2C#8, lo w, hi w]⟩]

/-- `ASL` (R171). -/
def aslForms (b : Byte) (w : Word) : List Form :=
  [⟨.aslZp b, .zp b, [0x06#8, b]⟩,
   ⟨.aslAbs w, .abs w, [0x0E#8, lo w, hi w]⟩,
   ⟨.aslZpx b, .zpx b, [0x16#8, b]⟩,
   ⟨.aslAbx w, .abx w, [0x1E#8, lo w, hi w]⟩]

/-- `LSR` (R172). -/
def lsrForms (b : Byte) (w : Word) : List Form :=
  [⟨.lsrZp b, .zp b, [0x46#8, b]⟩,
   ⟨.lsrAbs w, .abs w, [0x4E#8, lo w, hi w]⟩,
   ⟨.lsrZpx b, .zpx b, [0x56#8, b]⟩,
   ⟨.lsrAbx w, .abx w, [0x5E#8, lo w, hi w]⟩]

/-- `ROL` (R173). -/
def rolForms (b : Byte) (w : Word) : List Form :=
  [⟨.rolZp b, .zp b, [0x26#8, b]⟩,
   ⟨.rolAbs w, .abs w, [0x2E#8, lo w, hi w]⟩,
   ⟨.rolZpx b, .zpx b, [0x36#8, b]⟩,
   ⟨.rolAbx w, .abx w, [0x3E#8, lo w, hi w]⟩]

/-- `ROR` (R174). -/
def rorForms (b : Byte) (w : Word) : List Form :=
  [⟨.rorZp b, .zp b, [0x66#8, b]⟩,
   ⟨.rorAbs w, .abs w, [0x6E#8, lo w, hi w]⟩,
   ⟨.rorZpx b, .zpx b, [0x76#8, b]⟩,
   ⟨.rorAbx w, .abx w, [0x7E#8, lo w, hi w]⟩]

/-- `INC` (R175). -/
def incForms (b : Byte) (w : Word) : List Form :=
  [⟨.incZp b, .zp b, [0xE6#8, b]⟩,
   ⟨.incAbs w, .abs w, [0xEE#8, lo w, hi w]⟩,
   ⟨.incZpx b, .zpx b, [0xF6#8, b]⟩,
   ⟨.incAbx w, .abx w, [0xFE#8, lo w, hi w]⟩]

/-- `DEC` (R176). -/
def decForms (b : Byte) (w : Word) : List Form :=
  [⟨.decZp b, .zp b, [0xC6#8, b]⟩,
   ⟨.decAbs w, .abs w, [0xCE#8, lo w, hi w]⟩,
   ⟨.decZpx b, .zpx b, [0xD6#8, b]⟩,
   ⟨.decAbx w, .abx w, [0xDE#8, lo w, hi w]⟩]

/-! ## What an instruction with an operand does, as the claims say it -/

/-- `p'` is the status byte `p` with the listed flags at the listed values and every other bit unchanged. -/
def flagsBecome (p p' : Byte) (changes : List (Flag × Bool)) : Prop :=
  (∀ c, c ∈ changes → testFlag p' c.1 = c.2) ∧ ∀ f, f ∉ changes.map (fun c => c.1) → testFlag p' f = testFlag p f

/-- The address of the next instruction after a form that is no control transfer (spec/41_execution_loop.md R117). -/
def pcAfter (bytes : List Byte) (s : State) : Word := s.cpu.pc + BitVec.ofNat 16 bytes.length

/-- The form has its bytes, and where its operand can be read the instruction completes: `result v t` is the state for the
operand byte `v` and the state `t` after the operand read, before the advance of `PC`. -/
def readsThen (f : Form) (s : State) (result : Byte → State → State) : Prop :=
  encode f.instr = f.bytes ∧
    (operandReadable f.operand s = true →
      exec f.instr s =
        .next ((result (operandByte f.operand s) (operandAfter f.operand s)).setPc (pcAfter f.bytes s)))

/-- The form has its bytes, and where its effective address can be written the instruction completes and stores `v`. -/
def storesByte (f : Form) (s : State) (v : Byte) : Prop :=
  encode f.instr = f.bytes ∧
    (writable s (peekAddress f.operand s) = true →
      exec f.instr s = .next ((afterWrite s (peekAddress f.operand s) v).setPc (pcAfter f.bytes s)))

/-- The form has its bytes, and where its operand can be read and then written the instruction completes: one read, one
write of the function's result at the same address, the function's flags (spec/44_shift_inc_dec.md R170). -/
def modifiesBy (f : Form) (s : State) (op : Unary) : Prop :=
  encode f.instr = f.bytes ∧
    (operandModifiable f.operand s = true →
      exec f.instr s =
        .next (((afterWrite (afterRead s (peekAddress f.operand s)) (peekAddress f.operand s)
            (op (peek s (peekAddress f.operand s)) s.cpu.p).1).setP
            (op (peek s (peekAddress f.operand s)) s.cpu.p).2).setPc (pcAfter f.bytes s)))

/-- A one-byte instruction has its opcode byte and completes with `t`, before the advance of `PC`. -/
def completesWith (i : Instr) (opcode : Byte) (s t : State) : Prop :=
  encode i = [opcode] ∧ exec i s = .next (t.setPc (pcAfter [opcode] s))

/-- A branch has its bytes and completes: at the target when taken, after its two bytes when not (spec/45_control_flow.md
R196). -/
def branches (i : Instr) (opcode b : Byte) (taken : Bool) (s : State) : Prop :=
  encode i = [opcode, b] ∧
    exec i s =
      .next (s.setPc (if taken then BitVec.ofInt 16 ((s.cpu.pc.toNat : Int) + 2 + b.toInt) else s.cpu.pc + 2#16))

/-- RAM after three pushes at `sp`. -/
def pushedThree (m : Memory) (sp a b c : Byte) : Memory :=
  Memory.write (Memory.write (Memory.write m (stackCell sp) a) (stackCell (sp - 1#8)) b) (stackCell (sp - 2#8)) c

/-! ## Which instructions write what (spec/10_state.md R11 to R18) -/

/-- The mnemonic of an instruction, from the table. -/
def mnemonicOf (i : Instr) : Option Mnemonic := (metaOf i.opcode).map (fun e => e.mnemonic)

/-- The instructions that may write a flag (R18). -/
def flagWriters (f : Flag) : List Mnemonic :=
  match f with
  | .carry => [.adc, .sbc, .cmp, .cpx, .cpy, .asl, .lsr, .rol, .ror, .clc, .sec, .plp, .rti]
  | .zero => [.lda, .ldx, .ldy, .tax, .tay, .txa, .tya, .tsx, .pla, .and, .ora, .eor, .adc, .sbc, .asl, .lsr, .rol, .ror,
      .inc, .inx, .iny, .dec, .dex, .dey, .cmp, .cpx, .cpy, .bit, .plp, .rti]
  | .interruptDisable => [.sei, .cli, .brk, .plp, .rti]
  | .decimal => [.sed, .cld, .plp, .rti]
  | .brk => [.plp, .rti]
  | .unused => [.plp, .rti]
  | .overflow => [.adc, .sbc, .bit, .clv, .plp, .rti]
  | .negative => [.lda, .ldx, .ldy, .tax, .tay, .txa, .tya, .tsx, .pla, .and, .ora, .eor, .adc, .sbc, .asl, .lsr, .rol, .ror,
      .inc, .inx, .iny, .dec, .dex, .dey, .cmp, .cpx, .cpy, .bit, .plp, .rti]

/-- The instructions that may write a register (R11 to R14). -/
def registerWriters (r : Reg) : List Mnemonic :=
  match r with
  | .a => [.adc, .sbc, .and, .ora, .eor, .asl, .lsr, .rol, .ror, .lda, .txa, .tya, .pla]
  | .x => [.ldx, .tax, .tsx, .inx, .dex]
  | .y => [.ldy, .tay, .iny, .dey]
  | .sp => [.pha, .php, .pla, .plp, .txs, .jsr, .rts, .rti, .brk]

/-- The instructions that write memory: stores, read-modify-writes and pushes. The accumulator forms of the shifts write
none. -/
def memoryWriters : List Mnemonic :=
  [.sta, .stx, .sty, .asl, .lsr, .rol, .ror, .inc, .dec, .pha, .php, .jsr, .brk]

/-- The control transfers (spec/41_execution_loop.md R118). -/
def controlTransfers : List Mnemonic :=
  [.jmp, .jsr, .rts, .rti, .brk, .bpl, .bmi, .bvc, .bvs, .bcc, .bcs, .bne, .beq]

end Sys2Proof.Safety
end

