-- ==== Sys2Proof/Certificates/Slice0/Obligations.lean ====
section
/-!
DEFINITION. The statements about the machine, one definition each; every docstring names the rule of spec/ it formalises.
-/

open Sys2Proof Sys2Proof.Machine Sys2Proof.Safety

/-! ## Encoding -/

/-- spec/30_encoding.md R70 to R72: every instruction, at every operand value, is what the decoder reads from its bytes, and
the bytes after it are left. -/
def Obligations.DecodeInvertsEncode : Prop :=
  ∀ (i : Instr) (rest : List Byte), decode (encode i ++ rest) = .ok (i, rest)

/-- R70 to R72: bytes that decode are the encoding of the instruction read, followed by the bytes left. -/
def Obligations.EncodeInvertsDecode : Prop :=
  ∀ (bytes : List Byte) (i : Instr) (rest : List Byte), decode bytes = .ok (i, rest) → bytes = encode i ++ rest

/-- R77, spec/41_execution_loop.md R113, spec/60_exceptions.md R310: exactly the 105 listed bytes have no entry; the decoder
refuses them by name, and a step that fetches one is the fault `InvalidOpcode` with nothing changed but the device effect
of the fetch (and the boundary that has passed); the hook is not called. -/
def Obligations.UnassignedBytesAreInvalidOpcodes : Prop :=
  ∀ (op : Byte),
    (metaOf op = none ↔ op ∈ unassignedBytes) ∧
    (op ∈ unassignedBytes →
      (∀ rest, decode (op :: rest) = .error (.unassigned op)) ∧
      ∀ (s : State), dueEvent s = .instruction → readable s s.cpu.pc = true → peek s s.cpu.pc = op →
        step s = .fault (.invalidOpcode s.cpu.pc op (afterRead (passBoundary s) s.cpu.pc)) ∧ hookCall s = none)

/-- R71, R72, R75: words written out from the spec's encodings decode to the instructions they stand for, one of every
family. -/
def Obligations.SampleWordsDecode : Prop :=
  decodeTableWord 16 0b0011001110100101 = some (.ldaZp 0x33#8) ∧
  decodeTableWord 24 0b000000100000000010001101 = some (.staAbs 0x0200#16) ∧
  decodeTableWord 8 0b10111010 = some .tsx ∧
  decodeTableWord 16 0b0011001100010001 = some (.oraIzy 0x33#8) ∧
  decodeTableWord 16 0b0000010111100000 = some (.cpxImm 0x05#8) ∧
  decodeTableWord 8 0b01101010 = some .rorAcc ∧
  decodeTableWord 8 0b10001000 = some .dey ∧
  decodeTableWord 24 0b000000010010000001101100 = some (.jmpInd 0x0120#16) ∧
  decodeTableWord 16 0b1111101111010000 = some (.bne 0xFB#8) ∧
  decodeTableWord 8 0b00001000 = some .php ∧
  decodeTableWord 8 0b11111000 = some .sed ∧
  decodeTableWord 8 0b11101010 = some .nop ∧
  decodeTableWord 8 0b00000010 = none

/-- spec/41_execution_loop.md R117, R118: an instruction that is no control transfer advances `PC` by the length of its
metadata entry. -/
def Obligations.PcAdvancesByTheLength : Prop :=
  ∀ (i : Instr) (s t : State) (e : MetaEntry),
    exec i s = .next t → metaOf i.opcode = some e → e.mnemonic ∉ controlTransfers →
      t.cpu.pc = s.cpu.pc + BitVec.ofNat 16 e.len

/-! ## The step -/

/-- R111, R112, R116: where no reset or interrupt is due and the bytes at `PC`, in RAM or `PRG`, are those of an instruction,
the step is that instruction executed at the state past the boundary; if it faults the step is abandoned. -/
def Obligations.StepRunsTheDecodedInstruction : Prop :=
  ∀ (i : Instr) (s : State), dueEvent s = .instruction → standsAtPc i s →
    step s = abandon s.cpu (exec i (passBoundary s))

/-- spec/60_exceptions.md R318: an NMI (pending or requested, whatever `P.I` and the IRQ input are) and an IRQ (asserted, `P.I`
clear, no NMI) are taken: `PC` and the copy of `P` with bit 5 set and bit 4 clear are pushed, `P.I` is set, `PC` is the word at
0xFFFA or at 0xFFFE, an NMI clears the latch; the hook is not called. -/
def Obligations.InterruptsAreTaken : Prop :=
  (∀ (s : State), s.boundary.reset = false → (s.cpu.nmiPending = true ∨ s.boundary.nmi = true) →
    hookCall s = none ∧
    step s = .next
      { cpu := { s.cpu with
          sp := s.cpu.sp - 3#8, pc := peek16 s 0xFFFA#16, p := putFlag s.cpu.p .interruptDisable true,
          nmiPending := false }
        ppu := s.ppu
        ram := pushedThree s.ram s.cpu.sp (hi s.cpu.pc) (lo s.cpu.pc) ((s.cpu.p ||| 0x20#8) &&& 0xEF#8)
        session := s.session
        inputs := s.inputs.tail }) ∧
  ∀ (s : State), s.boundary = { reset := false, nmi := false, irq := true } → s.cpu.nmiPending = false →
    s.flag .interruptDisable = false →
    hookCall s = none ∧
    step s = .next
      { cpu := { s.cpu with
          sp := s.cpu.sp - 3#8, pc := peek16 s 0xFFFE#16, p := putFlag s.cpu.p .interruptDisable true }
        ppu := s.ppu
        ram := pushedThree s.ram s.cpu.sp (hi s.cpu.pc) (lo s.cpu.pc) ((s.cpu.p ||| 0x20#8) &&& 0xEF#8)
        session := s.session
        inputs := s.inputs.tail }

/-- R322, R323: from a state with `P.B = 0` and `P.U = 1`, the `RTI` after an interrupt entry resumes at the instruction not
yet executed, with every register as before the interrupt. The premises on RAM and `P` are invariants every step keeps
(`StepKeepsLegalStates`). -/
def Obligations.ReturnUndoesInterrupt : Prop :=
  ∀ (s t : State), Memory.wf s.ram = true → s.flag .brk = false → s.flag .unused = true →
    dueEvent s = .nmi ∨ dueEvent s = .irq → step s = .next t →
    ∃ u, exec .rti t = .next u ∧ u.cpu = { s.cpu with nmiPending := false } ∧ u.ram = t.ram ∧ u.ppu = s.ppu

/-- R316: with `P.I` set the IRQ input changes nothing: the step is that of a boundary at which nothing is driven. -/
def Obligations.IrqIsMaskedByInterruptDisable : Prop :=
  ∀ (s : State), s.boundary.reset = false → s.boundary.nmi = false → s.flag .interruptDisable = true →
    step s = step (s.drive (Boundary.idle :: s.inputs.tail))

/-- spec/70_reset_and_hazards.md R340, R341, R342, spec/60_exceptions.md R321: a reset request beats NMI, IRQ and the
instruction at its boundary; every register and the PPU block take their reset values, `PC` is the word at 0xFFFC, memory
behind the bus and the session constants are not touched, the hook is not called. That the request comes with a step and
takes that boundary's inputs with it is the model's choice (log entry 5). -/
def Obligations.ResetRequestResetsTheMachine : Prop :=
  ∀ (s : State), s.boundary.reset = true →
    step s = .next
      { cpu := { a := 0x00#8, x := 0x00#8, y := 0x00#8, sp := 0xFD#8, pc := peek16 s 0xFFFC#16, p := 0x24#8,
                 nmiPending := false }
        ppu := { addr := 0x0000#16, hiNext := true, ctrl := 0x00#8, buf := 0x00#8, vram := [], palette := [], oam := [] }
        ram := s.ram
        session := s.session
        inputs := s.inputs.tail } ∧
    hookCall s = none

/-- R315: `nmi_pending` is 0 in every state a step returns. -/
def Obligations.StepClearsTheNmiLatch : Prop :=
  ∀ (s t : State), step s = .next t → t.cpu.nmiPending = false

/-- spec/41_execution_loop.md R116, spec/48_ppu_vram_controller.md R292, spec/60_exceptions.md R310, R311: the state a fault
leaves has the CPU registers of the start of the step, and every memory, the control register and the toggle as before; an
`InvalidAddressSpace` records the latch value of that state, an address of the reserved range or above the ceiling, an
`InvalidOpcode` records `PC`. -/
def Obligations.FaultLeavesRegistersAndMemory : Prop :=
  ∀ (s : State) (f : Fault), step s = .fault f →
    (faultLeft f).cpu = s.cpu ∧ (faultLeft f).ram = s.ram ∧ (faultLeft f).session = s.session ∧
    (faultLeft f).ppu.vram = s.ppu.vram ∧ (faultLeft f).ppu.palette = s.ppu.palette ∧
    (faultLeft f).ppu.oam = s.ppu.oam ∧ (faultLeft f).ppu.ctrl = s.ppu.ctrl ∧
    (faultLeft f).ppu.hiNext = s.ppu.hiNext ∧
    (∀ a t, f = .invalidAddressSpace a t → a = t.ppu.addr ∧ latchFaults t.ppu = true) ∧
    ∀ pc op t, f = .invalidOpcode pc op t → pc = s.cpu.pc ∧ op ∈ unassignedBytes

/-- R114: the hook is called exactly when an instruction is due, its opcode byte can be read and has an entry; it sees the
registers as they were when the step began, `PC` at the opcode byte, the byte, and `Peek` (of the state after the opcode
fetch, the model's reading, log entry 8). -/
def Obligations.HookSeesThePreExecutionState : Prop :=
  ∀ (s : State),
    ((hookCall s).isSome = true ↔
      dueEvent s = .instruction ∧ readable s s.cpu.pc = true ∧ (metaOf (peek s s.cpu.pc)).isSome = true) ∧
    ∀ v, hookCall s = some v →
      v.a = s.cpu.a ∧ v.x = s.cpu.x ∧ v.y = s.cpu.y ∧ v.sp = s.cpu.sp ∧ v.p = s.cpu.p ∧ v.pc = s.cpu.pc ∧
      v.opcode = peek s s.cpu.pc ∧ v.look = peek (afterRead s s.cpu.pc)

/-! ## The bus -/

/-- spec/20_memory.md R46: `Peek` is the byte a read returns, and the read changes no more than the PPU block, through the
data port; where a read is refused or faults `Peek` is 0x00. -/
def Obligations.PeekIsWhatAReadReturns : Prop :=
  ∀ (s : State) (a : Word),
    (readable s a = true → memRead a s = .next (peek s a, afterRead s a)) ∧
    (readable s a = false → peek s a = 0x00#8 ∧ ∀ r, memRead a s ≠ .next r) ∧
    (plain s a = true → afterRead s a = s) ∧
    peek16 s a = (peek s (a + 1#16)).setWidth 16 * 256#16 + (peek s a).setWidth 16

/-- R55: under `FlatBus` every address is its own RAM byte, for reads, writes and peeks; RAM
starts at 0x00 outside what the host loads. -/
def Obligations.FlatBusIsRam : Prop :=
  (∀ (k : Session) (base n : Nat) (image : List Byte), ¬(base ≤ n ∧ n < base + image.length) →
    Memory.read (freshState k (Memory.load [] base image)).ram n = 0x00#8) ∧
  ∀ (s : State) (a : Word) (v : Byte), s.session.bus = .flat →
    memRead a s = .next (Memory.read s.ram a.toNat, s) ∧
    memWrite a v s = .next { s with ram := Memory.write s.ram a.toNat v } ∧
    peek s a = Memory.read s.ram a.toNat

/-- R56: the map of `NesBus`, range by range: RAM folded to 2048 bytes, the three ports in scope by `a & 7`, the refused
registers and ranges, `PRG` folded to its size and read-only; RAM starts at 0x00 outside what the
host loads. -/
def Obligations.NesBusFollowsItsMap : Prop :=
  (∀ (k : Session) (base n : Nat) (image : List Byte), ¬(base ≤ n ∧ n < base + image.length) →
    Memory.read (freshState k (Memory.load [] base image)).ram n = 0x00#8) ∧
  ∀ (s : State) (a : Word) (v : Byte), s.session.bus = .nes →
    (a.toNat ≤ 0x1FFF →
      memRead a s = .next (Memory.read s.ram (a.toNat % 2048), s) ∧
      memWrite a v s = .next { s with ram := Memory.write s.ram (a.toNat % 2048) v } ∧
      peek s a = Memory.read s.ram (a.toNat % 2048)) ∧
    (0x2000 ≤ a.toNat → a.toNat ≤ 0x3FFF →
      (a.toNat % 8 = 0 →
        memRead a s = .refused (.writeOnlyPort a) ∧ peek s a = 0x00#8 ∧
        memWrite a v s = .next { s with ppu := writeControlPort v s.ppu }) ∧
      (a.toNat % 8 = 6 →
        memRead a s = .refused (.writeOnlyPort a) ∧ peek s a = 0x00#8 ∧
        memWrite a v s = .next { s with ppu := writeAddressPort v s.ppu }) ∧
      (a.toNat % 8 = 7 →
        peek s a = peekDataPort s.session s.ppu ∧
        (∀ r, readDataPort s.session s.ppu = some r → memRead a s = .next (r.1, { s with ppu := r.2 })) ∧
        (readDataPort s.session s.ppu = none → memRead a s = .fault (.invalidAddressSpace s.ppu.addr s)) ∧
        (∀ u, writeDataPort s.session v s.ppu = some u → memWrite a v s = .next { s with ppu := u }) ∧
        (writeDataPort s.session v s.ppu = none → memWrite a v s = .fault (.invalidAddressSpace s.ppu.addr s))) ∧
      (a.toNat % 8 ∈ [1, 2, 3, 4, 5] →
        memRead a s = .refused (.ppuRegister a) ∧ memWrite a v s = .refused (.ppuRegister a) ∧ peek s a = 0x00#8)) ∧
    (0x4000 ≤ a.toNat → a.toNat ≤ 0x7FFF →
      memRead a s = .refused (.unmapped a) ∧ memWrite a v s = .refused (.unmapped a) ∧ peek s a = 0x00#8) ∧
    (0x8000 ≤ a.toNat →
      memRead a s = .next (Memory.read s.session.prg ((a.toNat - 0x8000) % s.session.prgSize.bytes), s) ∧
      memWrite a v s = .refused (.readOnly a) ∧
      peek s a = Memory.read s.session.prg ((a.toNat - 0x8000) % s.session.prgSize.bytes))

/-- R53, R52: after a store to RAM, a read through any address of the cell returns the byte stored, and every other address
reads as before. RAM is canonical, which every step keeps (`StepKeepsLegalStates`). -/
def Obligations.StoreIsSeenThroughEveryMirror : Prop :=
  ∀ (s t : State) (a b : Word) (v : Byte) (n : Nat), Memory.wf s.ram = true → route s.session a = .ram n →
    memWrite a v s = .next t →
    peek t b = if route s.session b = .ram n then v else peek s b

/-- R43, R44: `MemRead16` is the low byte, then the high byte, of two addresses in 16-bit arithmetic; `write16` is two
writes in that order; and a word written at two RAM addresses is the word read there. RAM is canonical, which every step
keeps (`StepKeepsLegalStates`). -/
def Obligations.WordAccessIsLittleEndian : Prop :=
  (∀ (s : State) (a : Word), readable s a = true → readable (afterRead s a) (a + 1#16) = true →
    ∃ w, memRead16 a s = .next (w, afterRead (afterRead s a) (a + 1#16)) ∧
      w.toNat = (peek (afterRead s a) (a + 1#16)).toNat * 256 + (peek s a).toNat) ∧
  (∀ (s : State) (a w : Word) (l h : Byte), writable s a = true → writable (afterWrite s a l) (a + 1#16) = true →
    w.toNat = h.toNat * 256 + l.toNat → memWrite16 a w s = .next (afterWrite (afterWrite s a l) (a + 1#16) h)) ∧
  ∀ (s : State) (a w : Word) (m n : Nat), Memory.wf s.ram = true → route s.session a = .ram m →
    route s.session (a + 1#16) = .ram n →
    ∃ t, memWrite16 a w s = .next t ∧ memRead16 a t = .next (w, t) ∧
      (peek t a).toNat = w.toNat % 256 ∧ (peek t (a + 1#16)).toNat = w.toNat / 256

/-- spec/40_addressing.md R91 to R101: the effective address of every mode, from operand bytes that a bus read answers, with
its wrap: 8 bits inside page zero, 16 bits outside. The reads are those of the rule, low byte first, and write nothing. For
Immediate the address is the operand location itself, which R91 marks as derived. R101 does not call the resolver for the
mode None: that it then answers no address, with no read, is the model's convention (log entry 19). -/
def Obligations.EffectiveAddressOfEveryMode : Prop :=
  ∀ (s : State) (loc : Word),
    effectiveAddress .immediate loc s = .next (some loc, s) ∧
    effectiveAddress .none loc s = .next (none, s) ∧
    (readable s loc = true →
      let b := peek s loc
      let u := afterRead s loc
      effectiveAddress .zeroPage loc s = .next (some (zext b), u) ∧
      effectiveAddress .zeroPageX loc s = .next (some (zext (b + s.cpu.x)), u) ∧
      effectiveAddress .zeroPageY loc s = .next (some (zext (b + s.cpu.y)), u) ∧
      effectiveAddress .indirectX loc s =
        .next (some (join (peek s (zext (b + s.cpu.x + 1#8))) (peek s (zext (b + s.cpu.x)))), u) ∧
      effectiveAddress .indirectY loc s =
        .next (some (join (peek s (zext (b + 1#8))) (peek s (zext b)) + zext s.cpu.y), u)) ∧
    (readable s loc = true → readable (afterRead s loc) (loc + 1#16) = true →
      let base := join (peek (afterRead s loc) (loc + 1#16)) (peek s loc)
      let u := afterRead (afterRead s loc) (loc + 1#16)
      effectiveAddress .absolute loc s = .next (some base, u) ∧
      effectiveAddress .absoluteX loc s = .next (some (base + zext s.cpu.x), u) ∧
      effectiveAddress .absoluteY loc s = .next (some (base + zext s.cpu.y), u))

/-! ## Loads, stores, transfers -/

/-- spec/42_load_store_transfer.md R131 to R133: `LDA`, `LDX`, `LDY` in every form. -/
def Obligations.LoadsComplete : Prop :=
  ∀ (b : Byte) (w : Word) (s : State),
    (∀ f, f ∈ ldaForms b w → readsThen f s (fun v t => (t.setReg .a v).setP (setZN v t.cpu.p))) ∧
    (∀ f, f ∈ ldxForms b w → readsThen f s (fun v t => (t.setReg .x v).setP (setZN v t.cpu.p))) ∧
    (∀ f, f ∈ ldyForms b w → readsThen f s (fun v t => (t.setReg .y v).setP (setZN v t.cpu.p)))

/-- R134 to R136: `STA`, `STX`, `STY` in every form. -/
def Obligations.StoresComplete : Prop :=
  ∀ (b : Byte) (w : Word) (s : State),
    (∀ f, f ∈ staForms b w → storesByte f s s.cpu.a) ∧
    (∀ f, f ∈ stxForms b w → storesByte f s s.cpu.x) ∧
    (∀ f, f ∈ styForms b w → storesByte f s s.cpu.y)

/-- R137 to R142: the six transfers; `TXS` alone writes no flag. -/
def Obligations.TransfersComplete : Prop :=
  ∀ (s : State),
    completesWith .tax 0xAA#8 s ((s.setReg .x s.cpu.a).setP (setZN s.cpu.a s.cpu.p)) ∧
    completesWith .tay 0xA8#8 s ((s.setReg .y s.cpu.a).setP (setZN s.cpu.a s.cpu.p)) ∧
    completesWith .txa 0x8A#8 s ((s.setReg .a s.cpu.x).setP (setZN s.cpu.x s.cpu.p)) ∧
    completesWith .tya 0x98#8 s ((s.setReg .a s.cpu.y).setP (setZN s.cpu.y s.cpu.p)) ∧
    completesWith .tsx 0xBA#8 s ((s.setReg .x s.cpu.sp).setP (setZN s.cpu.sp s.cpu.p)) ∧
    completesWith .txs 0x9A#8 s (s.setReg .sp s.cpu.x)

/-! ## Arithmetic, logic, compares, bit test -/

/-- spec/43_arithmetic_logic.md R150: `SetZN` always writes both flags and no other. -/
def Obligations.SetZNWritesZeroAndNegative : Prop :=
  ∀ (v p : Byte), flagsBecome p (setZN v p) [(.zero, decide (v.toNat = 0)), (.negative, decide (128 ≤ v.toNat))]

/-- R152: `ADC` in every form: the sum mod 256, C, V, Z, N by their formulas, no other flag; `P.D` plays no part. -/
def Obligations.AdcCompletes : Prop :=
  (∀ (a m p : Byte),
    let sum := a.toNat + m.toNat + (if testFlag p .carry then 1 else 0)
    let r := BitVec.ofNat 8 sum
    adcResult a m p = r ∧
    flagsBecome p (adcStatus a m p)
      [(.carry, decide (255 < sum)), (.overflow, ((a ^^^ r) &&& (m ^^^ r) &&& 0x80#8) != 0#8),
       (.zero, decide (sum % 256 = 0)), (.negative, decide (128 ≤ sum % 256))]) ∧
  ∀ (b : Byte) (w : Word) (s : State) (f : Form), f ∈ adcForms b w →
    readsThen f s (fun m t => (t.setReg .a (adcResult t.cpu.a m t.cpu.p)).setP (adcStatus t.cpu.a m t.cpu.p))

/-- R152: the V formula is signed overflow: the two's-complement sum leaves the range -128 to 127. -/
def Obligations.AdcOverflowIsSignedOverflow : Prop :=
  ∀ (a m p : Byte),
    testFlag (adcStatus a m p) .overflow = true ↔
      (a.toInt + m.toInt + (if testFlag p .carry then 1 else 0) < -128 ∨
        127 < a.toInt + m.toInt + (if testFlag p .carry then 1 else 0))

/-- R153: `SBC` in every form: `A - m - (1 - C)` mod 256; C is no borrow, V is signed overflow of the complemented sum. -/
def Obligations.SbcCompletes : Prop :=
  ∀ (b : Byte) (w : Word) (s : State) (f : Form), f ∈ sbcForms b w →
    encode f.instr = f.bytes ∧
    (operandReadable f.operand s = true →
      let m := operandByte f.operand s
      let c := if s.flag .carry then 1 else 0
      let n := m ^^^ 0xFF#8
      let sum := s.cpu.a.toNat + n.toNat + c
      let r := BitVec.ofNat 8 sum
      ∃ p', exec f.instr s =
          .next ((((operandAfter f.operand s).setReg .a r).setP p').setPc (pcAfter f.bytes s)) ∧
        (r.toNat : Int) = ((s.cpu.a.toNat : Int) - m.toNat - (1 - c)) % 256 ∧
        flagsBecome s.cpu.p p'
          [(.carry, decide (m.toNat + (1 - c) ≤ s.cpu.a.toNat)),
           (.overflow, ((s.cpu.a ^^^ r) &&& (n ^^^ r) &&& 0x80#8) != 0#8),
           (.zero, decide (r.toNat = 0)), (.negative, decide (128 ≤ r.toNat))])

/-- R154 to R156: `AND`, `ORA`, `EOR` in every form. -/
def Obligations.LogicCompletes : Prop :=
  ∀ (b : Byte) (w : Word) (s : State),
    (∀ f, f ∈ andForms b w →
      readsThen f s (fun m t => (t.setReg .a (t.cpu.a &&& m)).setP (setZN (t.cpu.a &&& m) t.cpu.p))) ∧
    (∀ f, f ∈ oraForms b w →
      readsThen f s (fun m t => (t.setReg .a (t.cpu.a ||| m)).setP (setZN (t.cpu.a ||| m) t.cpu.p))) ∧
    (∀ f, f ∈ eorForms b w →
      readsThen f s (fun m t => (t.setReg .a (t.cpu.a ^^^ m)).setP (setZN (t.cpu.a ^^^ m) t.cpu.p)))

/-- R157 to R159: `CMP`, `CPX`, `CPY` in every form: C the unsigned comparison, Z equality, N bit 7 of the difference. -/
def Obligations.ComparesComplete : Prop :=
  (∀ (r m p : Byte),
    flagsBecome p (compareStatus r m p)
      [(.carry, decide (m.toNat ≤ r.toNat)), (.zero, decide (r = m)),
       (.negative, decide (128 ≤ (256 + r.toNat - m.toNat) % 256))]) ∧
  ∀ (b : Byte) (w : Word) (s : State),
    (∀ f, f ∈ cmpForms b w → readsThen f s (fun m t => t.setP (compareStatus t.cpu.a m t.cpu.p))) ∧
    (∀ f, f ∈ cpxForms b w → readsThen f s (fun m t => t.setP (compareStatus t.cpu.x m t.cpu.p))) ∧
    (∀ f, f ∈ cpyForms b w → readsThen f s (fun m t => t.setP (compareStatus t.cpu.y m t.cpu.p)))

/-- R160: `BIT` in both forms: Z from the conjunction, N and V bits 7 and 6 of the memory byte. -/
def Obligations.BitTestCompletes : Prop :=
  (∀ (a m p : Byte),
    flagsBecome p (bitStatus a m p)
      [(.zero, decide (a &&& m = 0#8)), (.negative, decide (128 ≤ m.toNat)),
       (.overflow, decide (64 ≤ m.toNat % 128))]) ∧
  ∀ (b : Byte) (w : Word) (s : State) (f : Form), f ∈ bitForms b w →
    readsThen f s (fun m t => t.setP (bitStatus t.cpu.a m t.cpu.p))

/-! ## Shifts, rotates, increments, decrements -/

/-- spec/44_shift_inc_dec.md R171 to R174: `ASL`, `LSR`, `ROL`, `ROR`, the memory forms and the accumulator forms: the
result, C the bit shifted out, Z and N from the result. -/
def Obligations.ShiftsComplete : Prop :=
  (∀ (m p : Byte),
    let c := if testFlag p .carry then 1 else 0
    (aslOp m p).1.toNat = (m.toNat * 2) % 256 ∧
    (lsrOp m p).1.toNat = m.toNat / 2 ∧
    (rolOp m p).1.toNat = (m.toNat * 2) % 256 + c ∧
    (rorOp m p).1.toNat = m.toNat / 2 + 128 * c ∧
    flagsBecome p (aslOp m p).2 [(.carry, decide (128 ≤ m.toNat)), (.zero, decide ((aslOp m p).1 = 0#8)),
      (.negative, decide (128 ≤ (aslOp m p).1.toNat))] ∧
    flagsBecome p (lsrOp m p).2 [(.carry, decide (m.toNat % 2 = 1)), (.zero, decide ((lsrOp m p).1 = 0#8)),
      (.negative, false)] ∧
    flagsBecome p (rolOp m p).2 [(.carry, decide (128 ≤ m.toNat)), (.zero, decide ((rolOp m p).1 = 0#8)),
      (.negative, decide (128 ≤ (rolOp m p).1.toNat))] ∧
    flagsBecome p (rorOp m p).2 [(.carry, decide (m.toNat % 2 = 1)), (.zero, decide ((rorOp m p).1 = 0#8)),
      (.negative, testFlag p .carry)]) ∧
  ∀ (b : Byte) (w : Word) (s : State),
    (∀ f, f ∈ aslForms b w → modifiesBy f s aslOp) ∧
    (∀ f, f ∈ lsrForms b w → modifiesBy f s lsrOp) ∧
    (∀ f, f ∈ rolForms b w → modifiesBy f s rolOp) ∧
    (∀ f, f ∈ rorForms b w → modifiesBy f s rorOp) ∧
    completesWith .aslAcc 0x0A#8 s ((s.setReg .a (aslOp s.cpu.a s.cpu.p).1).setP (aslOp s.cpu.a s.cpu.p).2) ∧
    completesWith .lsrAcc 0x4A#8 s ((s.setReg .a (lsrOp s.cpu.a s.cpu.p).1).setP (lsrOp s.cpu.a s.cpu.p).2) ∧
    completesWith .rolAcc 0x2A#8 s ((s.setReg .a (rolOp s.cpu.a s.cpu.p).1).setP (rolOp s.cpu.a s.cpu.p).2) ∧
    completesWith .rorAcc 0x6A#8 s ((s.setReg .a (rorOp s.cpu.a s.cpu.p).1).setP (rorOp s.cpu.a s.cpu.p).2)

/-- R175, R176: `INC` and `DEC` in every form: plus or minus one mod 256, Z and N from the result, no other flag. -/
def Obligations.MemoryIncrementsComplete : Prop :=
  (∀ (m p : Byte),
    (incOp m p).1.toNat = (m.toNat + 1) % 256 ∧ (decOp m p).1.toNat = (m.toNat + 255) % 256 ∧
    flagsBecome p (incOp m p).2
      [(.zero, decide ((m.toNat + 1) % 256 = 0)), (.negative, decide (128 ≤ (m.toNat + 1) % 256))] ∧
    flagsBecome p (decOp m p).2
      [(.zero, decide ((m.toNat + 255) % 256 = 0)), (.negative, decide (128 ≤ (m.toNat + 255) % 256))]) ∧
  ∀ (b : Byte) (w : Word) (s : State),
    (∀ f, f ∈ incForms b w → modifiesBy f s incOp) ∧ (∀ f, f ∈ decForms b w → modifiesBy f s decOp)

/-- R177 to R180: `INX`, `INY`, `DEX`, `DEY`. -/
def Obligations.RegisterIncrementsComplete : Prop :=
  ∀ (s : State),
    completesWith .inx 0xE8#8 s ((s.setReg .x (s.cpu.x + 1#8)).setP (setZN (s.cpu.x + 1#8) s.cpu.p)) ∧
    completesWith .iny 0xC8#8 s ((s.setReg .y (s.cpu.y + 1#8)).setP (setZN (s.cpu.y + 1#8) s.cpu.p)) ∧
    completesWith .dex 0xCA#8 s ((s.setReg .x (s.cpu.x - 1#8)).setP (setZN (s.cpu.x - 1#8) s.cpu.p)) ∧
    completesWith .dey 0x88#8 s ((s.setReg .y (s.cpu.y - 1#8)).setP (setZN (s.cpu.y - 1#8) s.cpu.p))

/-! ## Control transfers -/

/-- spec/45_control_flow.md R191, R205: `JMP` absolute and indirect; the pointer's high byte comes from the same page. -/
def Obligations.JumpsComplete : Prop :=
  ∀ (w : Word) (s : State),
    encode (.jmpAbs w) = [0x4C#8, lo w, hi w] ∧ exec (.jmpAbs w) s = .next (s.setPc w) ∧
    encode (.jmpInd w) = [0x6C#8, lo w, hi w] ∧
    (readable s w = true →
      let h := BitVec.ofNat 16 (w.toNat / 256 * 256 + (w.toNat + 1) % 256)
      readable (afterRead s w) h = true →
        exec (.jmpInd w) s =
          .next ((afterRead (afterRead s w) h).setPc (join (peek (afterRead s w) h) (peek s w))))

/-- R192, R193: `JSR` pushes the address of its last byte, high byte first, and jumps; `RTS` pulls a word and adds one. -/
def Obligations.SubroutineCallsComplete : Prop :=
  ∀ (w : Word) (s : State),
    encode (.jsr w) = [0x20#8, lo w, hi w] ∧
    exec (.jsr w) s = .next
      { s with
        cpu := { s.cpu with sp := s.cpu.sp - 2#8, pc := w }
        ram := Memory.write (Memory.write s.ram (stackCell s.cpu.sp) (hi (s.cpu.pc + 2#16)))
          (stackCell (s.cpu.sp - 1#8)) (lo (s.cpu.pc + 2#16)) } ∧
    encode .rts = [0x60#8] ∧
    exec .rts s = .next
      { s with
        cpu := { s.cpu with
          sp := s.cpu.sp + 2#8
          pc := join (Memory.read s.ram (stackCell (s.cpu.sp + 2#8))) (Memory.read s.ram (stackCell (s.cpu.sp + 1#8))) + 1#16 } }

/-- R192, R193: a return right after a call resumes at the instruction after the `JSR`, with the stack pointer as before. RAM
is canonical, which every step keeps (`StepKeepsLegalStates`). -/
def Obligations.ReturnUndoesCall : Prop :=
  ∀ (w : Word) (s t : State), Memory.wf s.ram = true → exec (.jsr w) s = .next t →
    ∃ u, exec .rts t = .next u ∧ u.cpu = { s.cpu with pc := s.cpu.pc + 3#16 } ∧ u.ram = t.ram ∧ u.ppu = s.ppu

/-- R194: `RTI` pulls `P` with bit 4 forced to 0 and bit 5 to 1, then `PC` with no adjustment. -/
def Obligations.ReturnFromInterruptCompletes : Prop :=
  ∀ (s : State),
    encode .rti = [0x40#8] ∧
    exec .rti s = .next
      { s with
        cpu := { s.cpu with
          sp := s.cpu.sp + 3#8
          p := (Memory.read s.ram (stackCell (s.cpu.sp + 1#8)) &&& 0xEF#8) ||| 0x20#8
          pc := join (Memory.read s.ram (stackCell (s.cpu.sp + 3#8))) (Memory.read s.ram (stackCell (s.cpu.sp + 2#8))) } }

/-- R195, spec/60_exceptions.md R320: `BRK` pushes `PC + 2` and `P | 0x30`, sets `P.I`, continues at the word at 0xFFFE. -/
def Obligations.BreakCompletes : Prop :=
  ∀ (s : State),
    encode .brk = [0x00#8] ∧
    exec .brk s = .next
      { s with
        cpu := { s.cpu with
          sp := s.cpu.sp - 3#8, pc := peek16 s 0xFFFE#16, p := putFlag s.cpu.p .interruptDisable true }
        ram := pushedThree s.ram s.cpu.sp (hi (s.cpu.pc + 2#16)) (lo (s.cpu.pc + 2#16)) (s.cpu.p ||| 0x30#8) }

/-- R194, R195, spec/10_state.md R17: from a state with `P.B = 0` and `P.U = 1`, the `RTI` after a `BRK` resumes two bytes
past the `BRK` with every register as before it. The premises are invariants every step keeps (`StepKeepsLegalStates`). -/
def Obligations.ReturnUndoesBreak : Prop :=
  ∀ (s t : State), Memory.wf s.ram = true → s.flag .brk = false → s.flag .unused = true → exec .brk s = .next t →
    ∃ u, exec .rti t = .next u ∧ u.cpu = { s.cpu with pc := s.cpu.pc + 2#16 } ∧ u.ram = t.ram ∧ u.ppu = s.ppu

/-- R196 to R204: the eight branches, taken and not taken, the displacement signed, the sum mod 65536. -/
def Obligations.BranchesComplete : Prop :=
  ∀ (b : Byte) (s : State),
    branches (.bpl b) 0x10#8 b (!s.flag .negative) s ∧
    branches (.bmi b) 0x30#8 b (s.flag .negative) s ∧
    branches (.bvc b) 0x50#8 b (!s.flag .overflow) s ∧
    branches (.bvs b) 0x70#8 b (s.flag .overflow) s ∧
    branches (.bcc b) 0x90#8 b (!s.flag .carry) s ∧
    branches (.bcs b) 0xB0#8 b (s.flag .carry) s ∧
    branches (.bne b) 0xD0#8 b (!s.flag .zero) s ∧
    branches (.beq b) 0xF0#8 b (s.flag .zero) s

/-! ## Stack, flags, no operation -/

/-- spec/46_stack_flags_system.md R212 to R215: `PHA`, `PHP`, `PLA`, `PLP`: the byte, the cell, the pointer mod 256. -/
def Obligations.StackInstructionsComplete : Prop :=
  ∀ (s : State),
    completesWith .pha 0x48#8 s
      { s with cpu := { s.cpu with sp := s.cpu.sp - 1#8 }, ram := Memory.write s.ram (stackCell s.cpu.sp) s.cpu.a } ∧
    completesWith .php 0x08#8 s
      { s with
        cpu := { s.cpu with sp := s.cpu.sp - 1#8 }
        ram := Memory.write s.ram (stackCell s.cpu.sp) (s.cpu.p ||| 0x30#8) } ∧
    (let v := Memory.read s.ram (stackCell (s.cpu.sp + 1#8))
     completesWith .pla 0x68#8 s
       { s with cpu := { s.cpu with sp := s.cpu.sp + 1#8, a := v, p := setZN v s.cpu.p } } ∧
     completesWith .plp 0x28#8 s
       { s with cpu := { s.cpu with sp := s.cpu.sp + 1#8, p := (v &&& 0xEF#8) ||| 0x20#8 } })

/-- R216 to R223: the seven flag instructions write their flag and no other bit; `NOP` changes nothing but `PC`. -/
def Obligations.FlagInstructionsAndNopComplete : Prop :=
  (∀ (p : Byte) (f : Flag) (v : Bool), flagsBecome p (putFlag p f v) [(f, v)]) ∧
  ∀ (s : State),
    completesWith .clc 0x18#8 s (s.setP (putFlag s.cpu.p .carry false)) ∧
    completesWith .sec 0x38#8 s (s.setP (putFlag s.cpu.p .carry true)) ∧
    completesWith .cli 0x58#8 s (s.setP (putFlag s.cpu.p .interruptDisable false)) ∧
    completesWith .sei 0x78#8 s (s.setP (putFlag s.cpu.p .interruptDisable true)) ∧
    completesWith .cld 0xD8#8 s (s.setP (putFlag s.cpu.p .decimal false)) ∧
    completesWith .sed 0xF8#8 s (s.setP (putFlag s.cpu.p .decimal true)) ∧
    completesWith .clv 0xB8#8 s (s.setP (putFlag s.cpu.p .overflow false)) ∧
    completesWith .nop 0xEA#8 s s

/-! ## The PPU block -/

/-- spec/48_ppu_vram_controller.md R271, R272: an address-port write replaces the high or the low byte as the toggle says,
masks the latch to 14 bits and turns the toggle; a pair sets the latch to its word mod 0x4000. Nothing else changes. -/
def Obligations.AddressPortBuildsTheLatch : Prop :=
  ∀ (u : Ppu) (b l : Byte),
    (u.hiNext = true →
      ∃ v, writeAddressPort b u = { u with addr := v, hiNext := false } ∧
        v.toNat = (b.toNat * 256 + u.addr.toNat % 256) % 0x4000) ∧
    (u.hiNext = false →
      ∃ v, writeAddressPort b u = { u with addr := v, hiNext := true } ∧
        v.toNat = (u.addr.toNat / 256 * 256 + b.toNat) % 0x4000) ∧
    (u.hiNext = true →
      ∃ v, writeAddressPort l (writeAddressPort b u) = { u with addr := v, hiNext := true } ∧
        v.toNat = (b.toNat * 256 + l.toNat) % 0x4000)

/-- R273, R274: the control port stores the byte and nothing else; the increment adds 32 when bit 2 is set, else 1, mod
0x4000, and moves nothing but the latch; every data-port access that answers moves the latch by it, once. -/
def Obligations.ControlPortSelectsTheIncrement : Prop :=
  ∀ (u : Ppu) (b : Byte),
    writeControlPort b u = { u with ctrl := b } ∧
    ∃ v, incrementVramAddress u = { u with addr := v } ∧
      v.toNat = (u.addr.toNat + (if u.ctrl.toNat / 4 % 2 = 1 then 32 else 1)) % 0x4000 ∧
      ∀ (k : Session) (w : Byte),
        (∀ r, readDataPort k u = some r → r.2.addr = v ∧ r.2.hiNext = u.hiNext) ∧
        ∀ q, writeDataPort k w u = some q → q.addr = v ∧ q.hiNext = u.hiNext

/-- R276, R279 to R282: nametable mirroring: the index of every address in 0x2000 to 0x3EFF, below 2048, by logical table.
R276 (spec/92_eei_decisions.md D42) leaves the function undefined outside that range: that it then has no index is the
model's choice (log entry 18). -/
def Obligations.MirroringFoldsTheNametables : Prop :=
  ∀ (k : Mirroring) (addr : Word),
    (addr.toNat < 0x2000 ∨ 0x3EFF < addr.toNat → mirrorNametableAddress k addr = none) ∧
    (0x2000 ≤ addr.toNat → addr.toNat ≤ 0x3EFF →
      ∃ n, mirrorNametableAddress k addr = some n ∧ n < 2048 ∧
        (k = .vertical → n = addr.toNat % 0x1000 % 0x800) ∧
        (k = .horizontal → n = addr.toNat % 0x1000 / 0x800 * 0x400 + addr.toNat % 0x400))

/-- R284, R285, R286, R288: the data-port read, range by range, dispatched on the latch before the increment. -/
def Obligations.DataPortReadFollowsTheRange : Prop :=
  ∀ (k : Session) (u : Ppu),
    (u.addr.toNat ≤ 0x1FFF →
      readDataPort k u =
        some (u.buf, { u with addr := (incrementVramAddress u).addr, buf := Memory.read k.chr u.addr.toNat })) ∧
    (0x2000 ≤ u.addr.toNat → u.addr.toNat ≤ 0x2FFF →
      ∃ n, mirrorNametableAddress k.mirroring u.addr = some n ∧
        readDataPort k u =
          some (u.buf, { u with addr := (incrementVramAddress u).addr, buf := Memory.read u.vram n })) ∧
    (0x3000 ≤ u.addr.toNat → u.addr.toNat ≤ 0x3EFF → readDataPort k u = none) ∧
    (0x3F00 ≤ u.addr.toNat → u.addr.toNat ≤ 0x3FFF →
      readDataPort k u =
        some (Memory.read u.palette ((u.addr.toNat - 0x3F00) % 32),
          { u with addr := (incrementVramAddress u).addr })) ∧
    (0x3FFF < u.addr.toNat → readDataPort k u = none)

/-- R291: the data-port write, range by range; the buffer and the toggle are not touched. -/
def Obligations.DataPortWriteFollowsTheRange : Prop :=
  ∀ (k : Session) (u : Ppu) (b : Byte),
    (u.addr.toNat ≤ 0x1FFF → writeDataPort k b u = some { u with addr := (incrementVramAddress u).addr }) ∧
    (0x2000 ≤ u.addr.toNat → u.addr.toNat ≤ 0x2FFF →
      ∃ n, mirrorNametableAddress k.mirroring u.addr = some n ∧
        writeDataPort k b u =
          some { u with addr := (incrementVramAddress u).addr, vram := Memory.write u.vram n b }) ∧
    (0x3000 ≤ u.addr.toNat → u.addr.toNat ≤ 0x3EFF → writeDataPort k b u = none) ∧
    (0x3F00 ≤ u.addr.toNat → u.addr.toNat ≤ 0x3FFF →
      writeDataPort k b u =
        some { u with
          addr := (incrementVramAddress u).addr
          palette := Memory.write u.palette ((u.addr.toNat - 0x3F00) % 32) b }) ∧
    (0x3FFF < u.addr.toNat → writeDataPort k b u = none)

/-- R287, R289, R292: an access to the data port with the latch in the reserved range, or above the
ceiling, faults with the latch value and changes nothing; `Peek` shows 0x00. -/
def Obligations.ReservedAccessFaultsUnchanged : Prop :=
  ∀ (s : State) (a : Word) (v : Byte), route s.session a = .dataPort →
    ((0x3000 ≤ s.ppu.addr.toNat ∧ s.ppu.addr.toNat ≤ 0x3EFF) ∨ 0x3FFF < s.ppu.addr.toNat) →
      memRead a s = .fault (.invalidAddressSpace s.ppu.addr s) ∧
      memWrite a v s = .fault (.invalidAddressSpace s.ppu.addr s) ∧ peek s a = 0x00#8

/-- R293: a buffered read returns the byte of the cell the latest earlier buffered read addressed, as it
was then, whatever port writes and palette reads lie between; 0x00 when there was none since reset. -/
def Obligations.BufferedReadLagsByOne : Prop :=
  ∀ (k : Session) (cs : List PortAccess),
    (∀ (u u1 u2 u3 : Ppu) (r1 r2 : Byte), u.addr.toNat ≤ 0x2FFF → readDataPort k u = some (r1, u1) →
      portAccesses k u1 cs = some u2 → u2.addr.toNat ≤ 0x2FFF → readDataPort k u2 = some (r2, u3) →
        (u.addr.toNat ≤ 0x1FFF → r2 = Memory.read k.chr u.addr.toNat) ∧
        ∀ n, 0x2000 ≤ u.addr.toNat → mirrorNametableAddress k.mirroring u.addr = some n → r2 = Memory.read u.vram n) ∧
    ∀ (u2 u3 : Ppu) (r : Byte), portAccesses k Ppu.atReset cs = some u2 → u2.addr.toNat ≤ 0x2FFF →
      readDataPort k u2 = some (r, u3) → r = 0x00#8

/-! ## The tracer -/

/-- spec/47_tracer.md R234, R254, R255: every line, of every view and every opcode byte, has 73 characters, begins with the
four digits of `PC` and carries the register suffix, labels and order as listed, 25 characters, from column 48. -/
def Obligations.TraceLineIsFixedWidth : Prop :=
  ∀ (h : HookView),
    (trace h).length = 73 ∧ (trace h).take 4 = hex4 h.pc ∧ ((trace h).drop 48).length = 25 ∧
      (trace h).drop 48 =
        ['A', ':'] ++ hex2 h.a ++ [' ', 'X', ':'] ++ hex2 h.x ++ [' ', 'Y', ':'] ++ hex2 h.y ++ [' ', 'P', ':'] ++ hex2 h.p ++
          [' ', 'S', 'P', ':'] ++ hex2 h.sp

/-- R256: the line of an opcode byte without an entry: the byte alone, the placeholder, no operand, the suffix. The text `???`
is the open parameter `UNKNOWN_MNEMONIC` (spec/92_eei_decisions.md D30) at its default, fixed by the model (log entry 13). -/
def Obligations.UnknownOpcodeGetsThePlaceholderLine : Prop :=
  ∀ (h : HookView), h.opcode ∈ unassignedBytes →
    trace h = hex4 h.pc ++ [' ', ' '] ++ hex2 h.opcode ++ List.replicate 8 ' ' ++ ['?', '?', '?'] ++
      List.replicate 29 ' ' ++ registerSuffix h

/-- R258: the two exact lines of the source. -/
def Obligations.SourceLinesAreReproduced : Prop :=
  let session : Session := { Session.empty with bus := .flat }
  let a : State := { freshState session [(0x67, 0x88#8)] with
    cpu := { a := 0x01#8, x := 0x00#8, y := 0x03#8, sp := 0xFD#8, pc := 0x0067#16, p := 0x26#8, nmiPending := false } }
  let b : State := { freshState session [(0x34, 0x04#8), (0x64, 0x11#8), (0x65, 0x33#8), (0x400, 0xAA#8)] with
    cpu := { a := 0x00#8, x := 0x00#8, y := 0x00#8, sp := 0xFD#8, pc := 0x0064#16, p := 0x24#8, nmiPending := false } }
  (hookCall a).map (fun h => String.ofList (trace h)) =
      some "0067  88        DEY                             A:01 X:00 Y:03 P:26 SP:FD" ∧
    (hookCall b).map (fun h => String.ofList (trace h)) =
      some "0064  11 33     ORA ($33),Y = 0400 @ 0400 = AA  A:00 X:00 Y:00 P:24 SP:FD"

/-! ## Invariants and whole-machine rules -/

/-- spec/70_reset_and_hazards.md R343, spec/10_state.md R17, R21: every step keeps a legal state legal: the latch within its
ceiling, `P.B = 0` and `P.U = 1`, every memory in canonical form and within its size. -/
def Obligations.StepKeepsLegalStates : Prop := ∀ (s t : State), Legal s → step s = .next t → Legal t

/-- R340: the state right after reset has the values of the table, is legal, and is what `Reset()` makes of a fresh session;
its session (`NesBus`, an empty cartridge, Horizontal) is the model's choice, log entry 2. -/
def Obligations.ResetStateIsLegal : Prop :=
  Legal State.reset ∧ powerOn Session.empty [] = .next State.reset ∧
    State.reset.cpu = { a := 0x00#8, x := 0x00#8, y := 0x00#8, sp := 0xFD#8, pc := 0x0000#16, p := 0x24#8,
                        nmiPending := false } ∧
    State.reset.ppu = { addr := 0x0000#16, hiNext := true, ctrl := 0x00#8, buf := 0x00#8, vram := [], palette := [],
                        oam := [] }

/-- spec/10_state.md R26, R27, R29, spec/48_ppu_vram_controller.md R283, R296: no step changes a session constant, and OAM
changes only by a reset. That a step takes one boundary off the list of inputs is the model's choice (log entry 4). -/
def Obligations.StepKeepsSessionAndOam : Prop :=
  ∀ (s t : State), step s = .next t →
    t.session = s.session ∧ t.inputs = s.inputs.tail ∧ (s.boundary.reset = false → t.ppu.oam = s.ppu.oam)

/-- spec/20_memory.md R55, spec/60_exceptions.md R312: under `FlatBus` every instruction completes in every state and leaves
the PPU block alone, and a step ends in a next state or in `InvalidOpcode`. -/
def Obligations.FlatBusRunsEveryInstruction : Prop :=
  ∀ (s : State), s.session.bus = .flat →
    (∀ (i : Instr), ∃ t, exec i s = .next t ∧ t.ppu = s.ppu) ∧
    ((∃ t, step s = .next t) ∨ ∃ pc op left, step s = .fault (.invalidOpcode pc op left))

/-! ## Frames -/

/-- spec/10_state.md R11 to R14: a register is changed only by the instructions listed for it. -/
def Obligations.RegistersChangeOnlyByTheirWriters : Prop :=
  ∀ (i : Instr) (s t : State) (m : Mnemonic), exec i s = .next t → mnemonicOf i = some m →
    (∀ r, m ∉ registerWriters r → t.reg r = s.reg r) ∧ restKept s t

/-- R16 to R18: a flag is changed only by the instructions listed for it. -/
def Obligations.FlagsChangeOnlyByTheirWriters : Prop :=
  ∀ (i : Instr) (s t : State) (m : Mnemonic) (f : Flag), exec i s = .next t → mnemonicOf i = some m →
    m ∉ flagWriters f → t.flag f = s.flag f

/-- spec/20_memory.md R47, R48: an instruction that is no store, read-modify-write or push leaves every byte of memory
unchanged, and of the PPU block moves at most the latch and the buffer. -/
def Obligations.OtherInstructionsWriteNoMemory : Prop :=
  ∀ (i : Instr) (s t : State) (m : Mnemonic), exec i s = .next t → mnemonicOf i = some m → m ∉ memoryWriters →
    t.ram = s.ram ∧ t.ppu.vram = s.ppu.vram ∧ t.ppu.palette = s.ppu.palette ∧ t.ppu.ctrl = s.ppu.ctrl ∧
      t.ppu.hiNext = s.ppu.hiNext ∧ (s.session.bus = .flat → t.ppu = s.ppu)

/-- spec/42_load_store_transfer.md R130, R134 to R136, spec/44_shift_inc_dec.md R170: a store or a read-modify-write leaves
every byte of memory unchanged but the one at the address the resolver gives: a RAM cell, or, at the data port, the cell the latch
selects when the write is made. A store writes no CPU register and no flag, never the read buffer, and the PPU register of
the port it reaches alone; a read-modify-write writes no CPU register, and moves the PPU latch and buffer only at the data
port. -/
def Obligations.StoresWriteOnlyTheirByte : Prop :=
  ∀ (b : Byte) (w : Word) (s t u : State) (f : Form) (a : Word),
    exec f.instr s = .next t → resolve f.operand s = .next (a, u) →
    (f ∈ staForms b w ++ stxForms b w ++ styForms b w →
      memoryKeptBut a u.ppu s t ∧ regsKept [] s t ∧ flagsKept [] s t ∧ t.ppu.buf = s.ppu.buf ∧
        (route s.session a ≠ .controlPort → t.ppu.ctrl = s.ppu.ctrl) ∧
        (route s.session a ≠ .addressPort → t.ppu.hiNext = s.ppu.hiNext) ∧
        (route s.session a ∉ [.addressPort, .dataPort] → t.ppu.addr = s.ppu.addr)) ∧
    (f ∈ aslForms b w ++ lsrForms b w ++ rolForms b w ++ rorForms b w ++ incForms b w ++ decForms b w →
      memoryKeptBut a (afterRead u a).ppu s t ∧ regsKept [] s t ∧ flagsKept [.carry, .zero, .negative] s t ∧
        t.ppu.ctrl = s.ppu.ctrl ∧ t.ppu.hiNext = s.ppu.hiNext ∧
        (route s.session a ≠ .dataPort → t.ppu = s.ppu))

/-- spec/46_stack_flags_system.md R210, spec/45_control_flow.md R192, R195: a push instruction writes the stack cells it
pushes to and no other byte, and leaves the PPU block alone; the accumulator forms of the shifts write no memory. -/
def Obligations.PushesWriteOnlyTheStack : Prop :=
  ∀ (w : Word) (s t : State) (n : Nat),
    (exec .pha s = .next t ∨ exec .php s = .next t →
      (n ≠ stackCell s.cpu.sp → Memory.read t.ram n = Memory.read s.ram n) ∧ t.ppu = s.ppu) ∧
    (exec (.jsr w) s = .next t →
      (n ∉ [stackCell s.cpu.sp, stackCell (s.cpu.sp - 1#8)] → Memory.read t.ram n = Memory.read s.ram n) ∧
        t.ppu = s.ppu) ∧
    (exec .brk s = .next t →
      (n ∉ [stackCell s.cpu.sp, stackCell (s.cpu.sp - 1#8), stackCell (s.cpu.sp - 2#8)] →
        Memory.read t.ram n = Memory.read s.ram n) ∧ t.ppu = s.ppu) ∧
    (exec .aslAcc s = .next t ∨ exec .lsrAcc s = .next t ∨ exec .rolAcc s = .next t ∨ exec .rorAcc s = .next t →
      t.ram = s.ram ∧ t.ppu = s.ppu)
end

