-- ==== Sys2Proof/Laws/Bits.lean ====
section
/-!
SUPPORT. The halves of a word and the word of two halves.
-/
namespace Sys2Proof.Machine

theorem join_hi_lo (w : Word) : join (hi w) (lo w) = w := by
  apply BitVec.eq_of_getLsbD_eq
  intro i h
  by_cases h8 : i < 8
  · simp [join, hi, lo, h8, h]
  · have : i - 8 < 8 := by omega
    have : 8 + (i - 8) = i := by omega
    simp_all [join, hi, lo]

theorem lo_join (h l : Byte) : lo (join h l) = l := by
  apply BitVec.eq_of_getLsbD_eq
  intro i hi
  simp [join, lo, hi]

theorem hi_join (h l : Byte) : hi (join h l) = h := by
  apply BitVec.eq_of_getLsbD_eq
  intro i h8
  have h1 : ¬(8 + i < 8) := by omega
  have h2 : 8 + i < 16 := by omega
  simp [join, hi, h8, h1, h2]

theorem join_toNat (h l : Byte) : (join h l).toNat = h.toNat * 256 + l.toNat := by
  have hh := h.isLt
  have hl := l.isLt
  rw [join, BitVec.toNat_or, BitVec.toNat_shiftLeft]
  simp only [BitVec.toNat_setWidth]
  rw [Nat.mod_eq_of_lt (by omega : h.toNat < 2 ^ 16), Nat.mod_eq_of_lt (by omega : l.toNat < 2 ^ 16),
    Nat.mod_eq_of_lt (by rw [Nat.shiftLeft_eq]; omega), Nat.shiftLeft_eq, Nat.mul_comm,
    ← Nat.two_pow_add_eq_or_of_lt hl]

theorem hi_toNat (w : Word) : (hi w).toNat = w.toNat / 256 := by
  have := w.isLt
  simp only [hi, BitVec.toNat_setWidth, BitVec.toNat_ushiftRight, Nat.shiftRight_eq_div_pow]
  omega

theorem lo_toNat (w : Word) : (lo w).toNat = w.toNat % 256 := by
  simp [lo]

end Sys2Proof.Machine
end

