-- ==== Sys2Proof/Laws/Flags.lean ====
section
/-!
SUPPORT. Reading a flag after writing one, and what each flag computation does to the flags.
-/
namespace Sys2Proof.Machine
open Sys2Proof.Safety

/-- A flag is set when its bit is. -/
theorem testFlag_bits (p : Byte) :
    testFlag p .carry = p.getLsbD 0 ∧ testFlag p .zero = p.getLsbD 1 ∧ testFlag p .interruptDisable = p.getLsbD 2 ∧
    testFlag p .decimal = p.getLsbD 3 ∧ testFlag p .brk = p.getLsbD 4 ∧ testFlag p .unused = p.getLsbD 5 ∧
    testFlag p .overflow = p.getLsbD 6 ∧ testFlag p .negative = p.getLsbD 7 := by
  revert p; decide

/-- Writing a flag writes that flag and no other. -/
theorem testFlag_putFlag (p : Byte) (f g : Flag) (v : Bool) :
    testFlag (putFlag p f v) g = if g = f then v else testFlag p g := by
  have hp := testFlag_bits p
  have hq := testFlag_bits (putFlag p f v)
  cases f <;> cases g <;> cases v <;> simp_all [putFlag, Flag.mask]

/-- A status byte is its eight flags. -/
theorem status_ext {p q : Byte} (h : ∀ f, testFlag p f = testFlag q f) : p = q := by
  have hp := testFlag_bits p
  have hq := testFlag_bits q
  ext i hi
  rcases i with _ | _ | _ | _ | _ | _ | _ | _ | i
  · have := h .carry; simp_all
  · have := h .zero; simp_all
  · have := h .interruptDisable; simp_all
  · have := h .decimal; simp_all
  · have := h .brk; simp_all
  · have := h .unused; simp_all
  · have := h .overflow; simp_all
  · have := h .negative; simp_all
  · omega

theorem testFlag_setZN (v p : Byte) (g : Flag) :
    testFlag (setZN v p) g = if g = .negative then bit7 v else if g = .zero then v == 0#8 else testFlag p g := by
  simp only [setZN, testFlag_putFlag]

/-- The flags forced by `PLP` and `RTI`; every other flag is the pulled one. -/
theorem testFlag_pulledStatus (p : Byte) (g : Flag) :
    testFlag (pulledStatus p) g = if g = .brk then false else if g = .unused then true else testFlag p g := by
  have hp := testFlag_bits p
  have hq := testFlag_bits (pulledStatus p)
  cases g <;> simp_all [pulledStatus]

end Sys2Proof.Machine
end

