-- ==== Sys2Proof/Laws/Memory.lean ====
section
/-!
SUPPORT. The laws of memory: a read after a write, and that every operation keeps the canonical form and the bound.
-/
namespace Sys2Proof.Machine

@[simp] theorem Memory.read_nil (a : Nat) : Memory.read [] a = Memory.unlisted := rfl

theorem Memory.read_cons (k : Nat) (b : Byte) (rest : Memory) (a : Nat) :
    Memory.read ((k, b) :: rest) a = if k = a then b else Memory.read rest a := rfl

theorem Memory.wfFrom_cons (low k : Nat) (b : Byte) (rest : Memory) :
    Memory.wfFrom low ((k, b) :: rest) = true ↔
      low ≤ k ∧ b ≠ Memory.unlisted ∧ Memory.wfFrom (k + 1) rest = true := by
  simp [Memory.wfFrom, and_assoc]

/-- A canonical memory from `low` on is canonical from any lower bound on. -/
theorem Memory.wfFrom_mono {m : Memory} {low low' : Nat} (h : Memory.wfFrom low m = true) (hle : low' ≤ low) :
    Memory.wfFrom low' m = true := by
  cases m with
  | nil => rfl
  | cons c rest =>
    obtain ⟨k, b⟩ := c
    rw [Memory.wfFrom_cons] at h ⊢
    exact ⟨by omega, h.2⟩

/-- Below its first cell a canonical memory reads as unlisted. -/
theorem Memory.read_below {m : Memory} {low a : Nat} (h : Memory.wfFrom low m = true) (ha : a < low) :
    Memory.read m a = Memory.unlisted := by
  induction m generalizing low with
  | nil => rfl
  | cons c rest ih =>
    obtain ⟨k, b⟩ := c
    rw [Memory.wfFrom_cons] at h
    rw [Memory.read_cons, if_neg (by omega)]
    exact ih h.2.2 (by omega)

/-- A write leaves every other address of any memory alone. -/
theorem Memory.read_write_other (m : Memory) {a b : Nat} (hne : b ≠ a) (v : Byte) :
    Memory.read (Memory.write m a v) b = Memory.read m b := by
  have hput : ∀ rest : Memory, Memory.read (Memory.putCell a v rest) b = Memory.read rest b := by
    intro rest
    unfold Memory.putCell
    split
    · rfl
    · rw [Memory.read_cons, if_neg (Ne.symm hne)]
  induction m with
  | nil => exact hput []
  | cons c rest ih =>
    obtain ⟨k, w⟩ := c
    unfold Memory.write
    split_ifs with h1 h2
    · exact hput _
    · rw [hput, Memory.read_cons, if_neg (by omega)]
    · rw [Memory.read_cons, Memory.read_cons, ih]

/-- A write to a canonical memory reads back at its address. -/
theorem Memory.read_write_same_from {m : Memory} {low : Nat} (h : Memory.wfFrom low m = true) (a : Nat) (v : Byte) :
    Memory.read (Memory.write m a v) a = v := by
  have hput : ∀ rest : Memory, Memory.read rest a = Memory.unlisted → Memory.read (Memory.putCell a v rest) a = v := by
    intro rest hr
    unfold Memory.putCell
    split
    · rw [hr]; exact Eq.symm ‹_›
    · rw [Memory.read_cons, if_pos rfl]
  induction m generalizing low with
  | nil => exact hput [] rfl
  | cons c rest ih =>
    obtain ⟨k, w⟩ := c
    rw [Memory.wfFrom_cons] at h
    unfold Memory.write
    split_ifs with h1 h2
    · refine hput _ ?_
      rw [Memory.read_cons, if_neg (by omega)]
      exact Memory.read_below h.2.2 (by omega)
    · exact hput _ (Memory.read_below h.2.2 (by omega))
    · rw [Memory.read_cons, if_neg (Ne.symm h2)]
      exact ih h.2.2

theorem Memory.read_write_same {m : Memory} (h : Memory.wf m = true) (a : Nat) (v : Byte) :
    Memory.read (Memory.write m a v) a = v := Memory.read_write_same_from h a v

/-- What a canonical memory reads after a write. -/
theorem Memory.read_write {m : Memory} (h : Memory.wf m = true) (a b : Nat) (v : Byte) :
    Memory.read (Memory.write m a v) b = if b = a then v else Memory.read m b := by
  split
  · subst b; exact Memory.read_write_same h a v
  · exact Memory.read_write_other m ‹_› v

theorem Memory.putCell_wfFrom {rest : Memory} {low a : Nat} (h : Memory.wfFrom (a + 1) rest = true) (hle : low ≤ a)
    (v : Byte) : Memory.wfFrom low (Memory.putCell a v rest) = true := by
  unfold Memory.putCell
  split
  · exact Memory.wfFrom_mono h (by omega)
  · exact (Memory.wfFrom_cons ..).mpr ⟨hle, ‹_›, h⟩

/-- A write keeps the canonical form, from any bound at or below the address. -/
theorem Memory.write_wfFrom {m : Memory} {low : Nat} (h : Memory.wfFrom low m = true) {a : Nat} (hle : low ≤ a)
    (v : Byte) : Memory.wfFrom low (Memory.write m a v) = true := by
  induction m generalizing low with
  | nil => exact Memory.putCell_wfFrom rfl hle v
  | cons c rest ih =>
    obtain ⟨k, w⟩ := c
    rw [Memory.wfFrom_cons] at h
    unfold Memory.write
    split_ifs with h1 h2
    · exact Memory.putCell_wfFrom ((Memory.wfFrom_cons ..).mpr ⟨h1, h.2⟩) hle v
    · subst h2; exact Memory.putCell_wfFrom h.2.2 hle v
    · exact (Memory.wfFrom_cons ..).mpr ⟨h.1, h.2.1, ih h.2.2 (by omega)⟩

/-- A write keeps the canonical form. -/
theorem Memory.write_wf {m : Memory} (h : Memory.wf m = true) (a : Nat) (v : Byte) :
    Memory.wf (Memory.write m a v) = true := Memory.write_wfFrom h (Nat.zero_le a) v

theorem Memory.within_cons (size k : Nat) (b : Byte) (rest : Memory) :
    Memory.within size ((k, b) :: rest) = true ↔ k < size ∧ Memory.within size rest = true := by
  simp [Memory.within]

theorem Memory.putCell_within {rest : Memory} {size a : Nat} (h : Memory.within size rest = true) (ha : a < size)
    (v : Byte) : Memory.within size (Memory.putCell a v rest) = true := by
  unfold Memory.putCell
  split
  · exact h
  · exact (Memory.within_cons ..).mpr ⟨ha, h⟩

/-- A write inside the size keeps the bound. -/
theorem Memory.write_within {m : Memory} {size a : Nat} (h : Memory.within size m = true) (ha : a < size) (v : Byte) :
    Memory.within size (Memory.write m a v) = true := by
  induction m with
  | nil => exact Memory.putCell_within h ha v
  | cons c rest ih =>
    obtain ⟨k, w⟩ := c
    rw [Memory.within_cons] at h
    unfold Memory.write
    split_ifs
    · exact Memory.putCell_within ((Memory.within_cons ..).mpr h) ha v
    · exact Memory.putCell_within h.2 ha v
    · exact (Memory.within_cons ..).mpr ⟨h.1, ih h.2⟩

/-- Loading an image keeps the canonical form. -/
theorem Memory.load_wf {m : Memory} (h : Memory.wf m = true) (base : Nat) (image : List Byte) :
    Memory.wf (Memory.load m base image) = true := by
  induction image generalizing m base with
  | nil => exact h
  | cons b rest ih => exact ih (Memory.write_wf h base b) (base + 1)

/-- Loading an image that fits keeps the bound. -/
theorem Memory.load_within {m : Memory} {size : Nat} (h : Memory.within size m = true) (base : Nat) (image : List Byte)
    (hfit : base + image.length ≤ size) : Memory.within size (Memory.load m base image) = true := by
  induction image generalizing m base with
  | nil => exact h
  | cons b rest ih =>
    simp only [List.length_cons] at hfit
    exact ih (Memory.write_within h (by omega) b) (base + 1) (by omega)

/-- The memories of the reset state are canonical. -/
theorem State.reset_memories_wf :
    Memory.wf State.reset.ram = true ∧ Memory.wf State.reset.ppu.vram = true ∧
      Memory.wf State.reset.ppu.palette = true ∧ Memory.wf State.reset.ppu.oam = true ∧
      Memory.wf State.reset.session.chr = true ∧ Memory.wf State.reset.session.prg = true := by decide

end Sys2Proof.Machine
end

