-- ==== Sys2Proof/Laws/State.lean ====
section
/-!
SUPPORT. One lemma per field per update of the state, each true by unfolding the update.
-/
namespace Sys2Proof.Machine

variable (s : State) (p v : Byte) (w : Word) (u : Ppu) (m : Memory) (f : Flag) (b : Bool) (n : Nat)

@[simp] theorem setReg_a_cpu_a : (s.setReg .a v).cpu.a = v := rfl
@[simp] theorem setReg_a_cpu_x : (s.setReg .a v).cpu.x = s.cpu.x := rfl
@[simp] theorem setReg_a_cpu_y : (s.setReg .a v).cpu.y = s.cpu.y := rfl
@[simp] theorem setReg_a_cpu_sp : (s.setReg .a v).cpu.sp = s.cpu.sp := rfl
@[simp] theorem setReg_a_cpu_pc : (s.setReg .a v).cpu.pc = s.cpu.pc := rfl
@[simp] theorem setReg_a_cpu_p : (s.setReg .a v).cpu.p = s.cpu.p := rfl
@[simp] theorem setReg_a_cpu_nmiPending : (s.setReg .a v).cpu.nmiPending = s.cpu.nmiPending := rfl
@[simp] theorem setReg_a_ppu : (s.setReg .a v).ppu = s.ppu := rfl
@[simp] theorem setReg_a_ram : (s.setReg .a v).ram = s.ram := rfl
@[simp] theorem setReg_a_session : (s.setReg .a v).session = s.session := rfl
@[simp] theorem setReg_a_inputs : (s.setReg .a v).inputs = s.inputs := rfl

@[simp] theorem setReg_x_cpu_a : (s.setReg .x v).cpu.a = s.cpu.a := rfl
@[simp] theorem setReg_x_cpu_x : (s.setReg .x v).cpu.x = v := rfl
@[simp] theorem setReg_x_cpu_y : (s.setReg .x v).cpu.y = s.cpu.y := rfl
@[simp] theorem setReg_x_cpu_sp : (s.setReg .x v).cpu.sp = s.cpu.sp := rfl
@[simp] theorem setReg_x_cpu_pc : (s.setReg .x v).cpu.pc = s.cpu.pc := rfl
@[simp] theorem setReg_x_cpu_p : (s.setReg .x v).cpu.p = s.cpu.p := rfl
@[simp] theorem setReg_x_cpu_nmiPending : (s.setReg .x v).cpu.nmiPending = s.cpu.nmiPending := rfl
@[simp] theorem setReg_x_ppu : (s.setReg .x v).ppu = s.ppu := rfl
@[simp] theorem setReg_x_ram : (s.setReg .x v).ram = s.ram := rfl
@[simp] theorem setReg_x_session : (s.setReg .x v).session = s.session := rfl
@[simp] theorem setReg_x_inputs : (s.setReg .x v).inputs = s.inputs := rfl

@[simp] theorem setReg_y_cpu_a : (s.setReg .y v).cpu.a = s.cpu.a := rfl
@[simp] theorem setReg_y_cpu_x : (s.setReg .y v).cpu.x = s.cpu.x := rfl
@[simp] theorem setReg_y_cpu_y : (s.setReg .y v).cpu.y = v := rfl
@[simp] theorem setReg_y_cpu_sp : (s.setReg .y v).cpu.sp = s.cpu.sp := rfl
@[simp] theorem setReg_y_cpu_pc : (s.setReg .y v).cpu.pc = s.cpu.pc := rfl
@[simp] theorem setReg_y_cpu_p : (s.setReg .y v).cpu.p = s.cpu.p := rfl
@[simp] theorem setReg_y_cpu_nmiPending : (s.setReg .y v).cpu.nmiPending = s.cpu.nmiPending := rfl
@[simp] theorem setReg_y_ppu : (s.setReg .y v).ppu = s.ppu := rfl
@[simp] theorem setReg_y_ram : (s.setReg .y v).ram = s.ram := rfl
@[simp] theorem setReg_y_session : (s.setReg .y v).session = s.session := rfl
@[simp] theorem setReg_y_inputs : (s.setReg .y v).inputs = s.inputs := rfl

@[simp] theorem setReg_sp_cpu_a : (s.setReg .sp v).cpu.a = s.cpu.a := rfl
@[simp] theorem setReg_sp_cpu_x : (s.setReg .sp v).cpu.x = s.cpu.x := rfl
@[simp] theorem setReg_sp_cpu_y : (s.setReg .sp v).cpu.y = s.cpu.y := rfl
@[simp] theorem setReg_sp_cpu_sp : (s.setReg .sp v).cpu.sp = v := rfl
@[simp] theorem setReg_sp_cpu_pc : (s.setReg .sp v).cpu.pc = s.cpu.pc := rfl
@[simp] theorem setReg_sp_cpu_p : (s.setReg .sp v).cpu.p = s.cpu.p := rfl
@[simp] theorem setReg_sp_cpu_nmiPending : (s.setReg .sp v).cpu.nmiPending = s.cpu.nmiPending := rfl
@[simp] theorem setReg_sp_ppu : (s.setReg .sp v).ppu = s.ppu := rfl
@[simp] theorem setReg_sp_ram : (s.setReg .sp v).ram = s.ram := rfl
@[simp] theorem setReg_sp_session : (s.setReg .sp v).session = s.session := rfl
@[simp] theorem setReg_sp_inputs : (s.setReg .sp v).inputs = s.inputs := rfl

@[simp] theorem setP_cpu_a : (s.setP p).cpu.a = s.cpu.a := rfl
@[simp] theorem setP_cpu_x : (s.setP p).cpu.x = s.cpu.x := rfl
@[simp] theorem setP_cpu_y : (s.setP p).cpu.y = s.cpu.y := rfl
@[simp] theorem setP_cpu_sp : (s.setP p).cpu.sp = s.cpu.sp := rfl
@[simp] theorem setP_cpu_pc : (s.setP p).cpu.pc = s.cpu.pc := rfl
@[simp] theorem setP_cpu_p : (s.setP p).cpu.p = p := rfl
@[simp] theorem setP_cpu_nmiPending : (s.setP p).cpu.nmiPending = s.cpu.nmiPending := rfl
@[simp] theorem setP_ppu : (s.setP p).ppu = s.ppu := rfl
@[simp] theorem setP_ram : (s.setP p).ram = s.ram := rfl
@[simp] theorem setP_session : (s.setP p).session = s.session := rfl
@[simp] theorem setP_inputs : (s.setP p).inputs = s.inputs := rfl

@[simp] theorem setPc_cpu_a : (s.setPc w).cpu.a = s.cpu.a := rfl
@[simp] theorem setPc_cpu_x : (s.setPc w).cpu.x = s.cpu.x := rfl
@[simp] theorem setPc_cpu_y : (s.setPc w).cpu.y = s.cpu.y := rfl
@[simp] theorem setPc_cpu_sp : (s.setPc w).cpu.sp = s.cpu.sp := rfl
@[simp] theorem setPc_cpu_pc : (s.setPc w).cpu.pc = w := rfl
@[simp] theorem setPc_cpu_p : (s.setPc w).cpu.p = s.cpu.p := rfl
@[simp] theorem setPc_cpu_nmiPending : (s.setPc w).cpu.nmiPending = s.cpu.nmiPending := rfl
@[simp] theorem setPc_ppu : (s.setPc w).ppu = s.ppu := rfl
@[simp] theorem setPc_ram : (s.setPc w).ram = s.ram := rfl
@[simp] theorem setPc_session : (s.setPc w).session = s.session := rfl
@[simp] theorem setPc_inputs : (s.setPc w).inputs = s.inputs := rfl

@[simp] theorem setNmiPending_cpu_a : (s.setNmiPending b).cpu.a = s.cpu.a := rfl
@[simp] theorem setNmiPending_cpu_x : (s.setNmiPending b).cpu.x = s.cpu.x := rfl
@[simp] theorem setNmiPending_cpu_y : (s.setNmiPending b).cpu.y = s.cpu.y := rfl
@[simp] theorem setNmiPending_cpu_sp : (s.setNmiPending b).cpu.sp = s.cpu.sp := rfl
@[simp] theorem setNmiPending_cpu_pc : (s.setNmiPending b).cpu.pc = s.cpu.pc := rfl
@[simp] theorem setNmiPending_cpu_p : (s.setNmiPending b).cpu.p = s.cpu.p := rfl
@[simp] theorem setNmiPending_cpu_nmiPending : (s.setNmiPending b).cpu.nmiPending = b := rfl
@[simp] theorem setNmiPending_ppu : (s.setNmiPending b).ppu = s.ppu := rfl
@[simp] theorem setNmiPending_ram : (s.setNmiPending b).ram = s.ram := rfl
@[simp] theorem setNmiPending_session : (s.setNmiPending b).session = s.session := rfl
@[simp] theorem setNmiPending_inputs : (s.setNmiPending b).inputs = s.inputs := rfl

@[simp] theorem setPpu_cpu_a : (s.setPpu u).cpu.a = s.cpu.a := rfl
@[simp] theorem setPpu_cpu_x : (s.setPpu u).cpu.x = s.cpu.x := rfl
@[simp] theorem setPpu_cpu_y : (s.setPpu u).cpu.y = s.cpu.y := rfl
@[simp] theorem setPpu_cpu_sp : (s.setPpu u).cpu.sp = s.cpu.sp := rfl
@[simp] theorem setPpu_cpu_pc : (s.setPpu u).cpu.pc = s.cpu.pc := rfl
@[simp] theorem setPpu_cpu_p : (s.setPpu u).cpu.p = s.cpu.p := rfl
@[simp] theorem setPpu_cpu_nmiPending : (s.setPpu u).cpu.nmiPending = s.cpu.nmiPending := rfl
@[simp] theorem setPpu_ppu : (s.setPpu u).ppu = u := rfl
@[simp] theorem setPpu_ram : (s.setPpu u).ram = s.ram := rfl
@[simp] theorem setPpu_session : (s.setPpu u).session = s.session := rfl
@[simp] theorem setPpu_inputs : (s.setPpu u).inputs = s.inputs := rfl

@[simp] theorem setRam_cpu_a : (s.setRam m).cpu.a = s.cpu.a := rfl
@[simp] theorem setRam_cpu_x : (s.setRam m).cpu.x = s.cpu.x := rfl
@[simp] theorem setRam_cpu_y : (s.setRam m).cpu.y = s.cpu.y := rfl
@[simp] theorem setRam_cpu_sp : (s.setRam m).cpu.sp = s.cpu.sp := rfl
@[simp] theorem setRam_cpu_pc : (s.setRam m).cpu.pc = s.cpu.pc := rfl
@[simp] theorem setRam_cpu_p : (s.setRam m).cpu.p = s.cpu.p := rfl
@[simp] theorem setRam_cpu_nmiPending : (s.setRam m).cpu.nmiPending = s.cpu.nmiPending := rfl
@[simp] theorem setRam_ppu : (s.setRam m).ppu = s.ppu := rfl
@[simp] theorem setRam_ram : (s.setRam m).ram = m := rfl
@[simp] theorem setRam_session : (s.setRam m).session = s.session := rfl
@[simp] theorem setRam_inputs : (s.setRam m).inputs = s.inputs := rfl

@[simp] theorem setFlag_cpu_a : (s.setFlag f b).cpu.a = s.cpu.a := rfl
@[simp] theorem setFlag_cpu_x : (s.setFlag f b).cpu.x = s.cpu.x := rfl
@[simp] theorem setFlag_cpu_y : (s.setFlag f b).cpu.y = s.cpu.y := rfl
@[simp] theorem setFlag_cpu_sp : (s.setFlag f b).cpu.sp = s.cpu.sp := rfl
@[simp] theorem setFlag_cpu_pc : (s.setFlag f b).cpu.pc = s.cpu.pc := rfl
@[simp] theorem setFlag_cpu_p : (s.setFlag f b).cpu.p = putFlag s.cpu.p f b := rfl
@[simp] theorem setFlag_cpu_nmiPending : (s.setFlag f b).cpu.nmiPending = s.cpu.nmiPending := rfl
@[simp] theorem setFlag_ppu : (s.setFlag f b).ppu = s.ppu := rfl
@[simp] theorem setFlag_ram : (s.setFlag f b).ram = s.ram := rfl
@[simp] theorem setFlag_session : (s.setFlag f b).session = s.session := rfl
@[simp] theorem setFlag_inputs : (s.setFlag f b).inputs = s.inputs := rfl

@[simp] theorem advance_cpu_a : (s.advance n).cpu.a = s.cpu.a := rfl
@[simp] theorem advance_cpu_x : (s.advance n).cpu.x = s.cpu.x := rfl
@[simp] theorem advance_cpu_y : (s.advance n).cpu.y = s.cpu.y := rfl
@[simp] theorem advance_cpu_sp : (s.advance n).cpu.sp = s.cpu.sp := rfl
@[simp] theorem advance_cpu_pc : (s.advance n).cpu.pc = s.cpu.pc + BitVec.ofNat 16 n := rfl
@[simp] theorem advance_cpu_p : (s.advance n).cpu.p = s.cpu.p := rfl
@[simp] theorem advance_cpu_nmiPending : (s.advance n).cpu.nmiPending = s.cpu.nmiPending := rfl
@[simp] theorem advance_ppu : (s.advance n).ppu = s.ppu := rfl
@[simp] theorem advance_ram : (s.advance n).ram = s.ram := rfl
@[simp] theorem advance_session : (s.advance n).session = s.session := rfl
@[simp] theorem advance_inputs : (s.advance n).inputs = s.inputs := rfl

@[simp] theorem passBoundary_cpu_a : (passBoundary s).cpu.a = s.cpu.a := rfl
@[simp] theorem passBoundary_cpu_x : (passBoundary s).cpu.x = s.cpu.x := rfl
@[simp] theorem passBoundary_cpu_y : (passBoundary s).cpu.y = s.cpu.y := rfl
@[simp] theorem passBoundary_cpu_sp : (passBoundary s).cpu.sp = s.cpu.sp := rfl
@[simp] theorem passBoundary_cpu_pc : (passBoundary s).cpu.pc = s.cpu.pc := rfl
@[simp] theorem passBoundary_cpu_p : (passBoundary s).cpu.p = s.cpu.p := rfl
@[simp] theorem passBoundary_cpu_nmiPending : (passBoundary s).cpu.nmiPending = s.cpu.nmiPending := rfl
@[simp] theorem passBoundary_ppu : (passBoundary s).ppu = s.ppu := rfl
@[simp] theorem passBoundary_ram : (passBoundary s).ram = s.ram := rfl
@[simp] theorem passBoundary_session : (passBoundary s).session = s.session := rfl
@[simp] theorem passBoundary_inputs : (passBoundary s).inputs = s.inputs.tail := rfl

@[simp] theorem reg_a : s.reg .a = s.cpu.a := rfl
@[simp] theorem reg_x : s.reg .x = s.cpu.x := rfl
@[simp] theorem reg_y : s.reg .y = s.cpu.y := rfl
@[simp] theorem reg_sp : s.reg .sp = s.cpu.sp := rfl

/-- A register update in every field at once, whichever the register. -/
theorem setReg_fields (r : Reg) : (s.setReg r v).cpu.pc = s.cpu.pc ∧ (s.setReg r v).cpu.p = s.cpu.p ∧
    (s.setReg r v).cpu.nmiPending = s.cpu.nmiPending ∧ (s.setReg r v).ppu = s.ppu ∧ (s.setReg r v).ram = s.ram ∧
    (s.setReg r v).session = s.session ∧ (s.setReg r v).inputs = s.inputs := by
  cases r <;> simp

/-- Reading the register just written. -/
theorem reg_setReg_same (r : Reg) : (s.setReg r v).reg r = v := by cases r <;> rfl

/-- Reading another register than the one written. -/
theorem reg_setReg_other (r q : Reg) (h : q ≠ r) : (s.setReg r v).reg q = s.reg q := by
  cases r <;> cases q <;> first | rfl | exact absurd rfl h

@[simp] theorem reg_setP (r : Reg) : (s.setP p).reg r = s.reg r := by cases r <;> rfl
@[simp] theorem reg_setPc (r : Reg) : (s.setPc w).reg r = s.reg r := by cases r <;> rfl
@[simp] theorem reg_setPpu (r : Reg) : (s.setPpu u).reg r = s.reg r := by cases r <;> rfl
@[simp] theorem reg_setRam (r : Reg) : (s.setRam m).reg r = s.reg r := by cases r <;> rfl
@[simp] theorem reg_advance (r : Reg) : (s.advance n).reg r = s.reg r := by cases r <;> rfl
@[simp] theorem reg_setFlag (r : Reg) : (s.setFlag f b).reg r = s.reg r := by cases r <;> rfl

end Sys2Proof.Machine
end

