-- ==== Sys2Proof/Laws/Ops.lean ====
section
/-!
SUPPORT. What each shared operation can do, said once: sequencing, the routing of fixed pages, bus accesses, the stack,
interrupt entry.
-/
namespace Sys2Proof.Machine
open Sys2Proof.Safety

/-! ## Sequencing -/

theorem chain_next {α β : Type} (v : α) (k : α → Res β) : chain (.next v) k = k v := rfl

theorem chain_fault {α β : Type} (f : Fault) (k : α → Res β) : chain (.fault f) k = .fault f := rfl

theorem chain_refused {α β : Type} (r : Refusal) (k : α → Res β) : chain (.refused r) k = .refused r := rfl

/-- A sequence answers a next value exactly when both parts do. -/
theorem chain_eq_next {α β : Type} {o : Res α} {k : α → Res β} {b : β} :
    chain o k = .next b ↔ ∃ a, o = .next a ∧ k a = .next b := by
  cases o <;> simp [chain]

/-- A sequence faults exactly when its first part does, or its first part answers and the second faults. -/
theorem chain_eq_fault {α β : Type} {o : Res α} {k : α → Res β} {f : Fault} :
    chain o k = .fault f ↔ o = .fault f ∨ ∃ a, o = .next a ∧ k a = .fault f := by
  cases o <;> simp [chain]

/-- Abandoning a step changes no next state. -/
theorem abandon_eq_next {cpu : Cpu} {o : Res State} {t : State} : abandon cpu o = .next t ↔ o = .next t := by
  cases o with
  | next v => rfl
  | fault f => cases f <;> simp [abandon]
  | refused r => simp [abandon]

/-! ## Routing -/

theorem zext_toNat (b : Byte) : (zext b).toNat = b.toNat := by simp [zext]; omega

theorem stackAddress_toNat (sp : Byte) : (stackAddress sp).toNat = stackCell sp := by
  have := sp.isLt
  simp [stackAddress, Config.stackBase, stackCell, BitVec.toNat_add, zext]
  omega

/-- An address below 0x0800 is its own RAM cell under both maps. -/
theorem route_low (k : Session) {a : Word} (h : a.toNat < 0x0800) : route k a = .ram a.toNat := by
  unfold route
  cases k.bus
  · rfl
  · have h2 : a < 0x2000#16 := by rw [BitVec.lt_def]; simp; omega
    simp only [if_pos h2, Config.nesRamSize]
    rw [Nat.mod_eq_of_lt (by omega)]

/-- Page zero is RAM under both maps (spec/40_addressing.md R92, R98). -/
theorem route_zext (k : Session) (b : Byte) : route k (zext b) = .ram b.toNat := by
  have := b.isLt
  rw [route_low k (by rw [zext_toNat]; omega), zext_toNat]

/-- The stack page is RAM under both maps (spec/10_state.md R14). -/
theorem route_stackAddress (k : Session) (sp : Byte) : route k (stackAddress sp) = .ram (stackCell sp) := by
  have := sp.isLt
  rw [route_low k (by rw [stackAddress_toNat, stackCell]; omega), stackAddress_toNat]

/-- The upper half of the address space is RAM or `PRG`. -/
theorem route_high (k : Session) {a : Word} (h : 0x8000 ≤ a.toNat) :
    (k.bus = .flat ∧ route k a = .ram a.toNat) ∨
      (k.bus = .nes ∧ route k a = .prg ((a.toNat - 0x8000) % k.prgSize.bytes)) := by
  unfold route
  cases k.bus
  · exact .inl ⟨rfl, rfl⟩
  · refine .inr ⟨rfl, ?_⟩
    simp only [BitVec.lt_def, BitVec.toNat_ofNat]
    rw [if_neg (by omega), if_neg (by omega), if_neg (by omega)]

/-- Every address is RAM under `FlatBus`. -/
theorem route_flat {k : Session} (h : k.bus = .flat) (a : Word) : route k a = .ram a.toNat := by
  unfold route; rw [h]

/-- A RAM cell lies inside the RAM behind the bus. -/
theorem route_ram_lt {k : Session} {a : Word} {n : Nat} (h : route k a = .ram n) : n < ramSize k := by
  unfold route at h
  unfold ramSize
  cases hb : k.bus <;> rw [hb] at h <;> simp only at h ⊢
  · cases h; exact a.isLt
  · split_ifs at h
    · cases h; exact Nat.mod_lt _ (by decide)
    · unfold nesPort at h; split_ifs at h

/-! ## The data port -/

/-- The latch values an access faults on are those of the reserved range and those above the ceiling. -/
theorem latchFaults_iff (u : Ppu) :
    latchFaults u = true ↔ ppuRegion u.addr = .reserved ∨ ppuRegion u.addr = .beyond := by
  unfold latchFaults ppuRegion
  split_ifs <;> simp only [BitVec.le_def, BitVec.lt_def, BitVec.toNat_ofNat] at * <;> simp <;> omega

theorem readDataPort_eq_none (k : Session) (u : Ppu) : readDataPort k u = none ↔ latchFaults u = true := by
  rw [latchFaults_iff]
  unfold readDataPort
  cases ppuRegion u.addr <;> simp

theorem writeDataPort_eq_none (k : Session) (b : Byte) (u : Ppu) :
    writeDataPort k b u = none ↔ latchFaults u = true := by
  rw [latchFaults_iff]
  unfold writeDataPort
  cases ppuRegion u.addr <;> simp

/-- What a data-port read leaves: the toggle, the control register and every memory as they were, the latch moved; it
returns what `Peek` shows. -/
theorem readDataPort_eq_some {k : Session} {u : Ppu} {r : Byte × Ppu} (h : readDataPort k u = some r) :
    r.1 = peekDataPort k u ∧ ∃ buf, r.2 = { u with addr := (incrementVramAddress u).addr, buf := buf } := by
  unfold readDataPort at h
  unfold peekDataPort
  split at h <;> rename_i hg <;> cases h <;> simp only [incrementVramAddress] <;> exact ⟨trivial, _, rfl⟩

/-- What a data-port write leaves: the latch moved, and at most one cell of VRAM or the palette written. -/
theorem writeDataPort_eq_some {k : Session} {b : Byte} {u v : Ppu} (h : writeDataPort k b u = some v) :
    (ppuRegion u.addr = .pattern ∧ v = { u with addr := (incrementVramAddress u).addr }) ∨
    (ppuRegion u.addr = .nametable ∧
      v = { u with addr := (incrementVramAddress u).addr,
                   vram := Memory.write u.vram (mirrorIndex k.mirroring u.addr) b }) ∨
    (ppuRegion u.addr = .palette ∧
      v = { u with addr := (incrementVramAddress u).addr,
                   palette := Memory.write u.palette (paletteIndex u.addr) b }) := by
  unfold writeDataPort at h
  split at h <;> rename_i hg <;> cases h
  · exact .inl ⟨hg, rfl⟩
  · exact .inr (.inl ⟨hg, rfl⟩)
  · exact .inr (.inr ⟨hg, rfl⟩)

/-- A masked latch is within the ceiling. -/
theorem maskLatch_le (w : Word) : maskLatch w ≤ 0x3FFF#16 := by
  rw [BitVec.le_def, maskLatch, BitVec.toNat_and]
  exact Nat.and_le_right

/-- An index of the nametable region lies inside VRAM. -/
theorem mirrorIndex_lt (m : Mirroring) (addr : Word) : mirrorIndex m addr < Config.vramSize := by
  have hi : (addr &&& 0x0FFF#16).toNat ≤ 0x0FFF := by rw [BitVec.toNat_and]; exact Nat.and_le_right
  simp only [mirrorIndex, Config.vramSize]
  cases m <;> simp only <;> split_ifs <;> omega

theorem paletteIndex_lt (addr : Word) : paletteIndex addr < Config.paletteSize := Nat.mod_lt _ (by decide)

/-! ## Bus accesses -/

/-- A bus read that answers returns what `Peek` shows, and moves nothing but the data port. -/
theorem memRead_eq_next {a : Word} {s : State} {r : Byte × State} (h : memRead a s = .next r) :
    readable s a = true ∧ r = (peek s a, afterRead s a) := by
  unfold memRead at h
  unfold readable peek afterRead
  split at h <;> rename_i hr <;> simp only [hr]
  · cases h; simp
  · cases h; simp
  · split at h <;> rename_i hq <;> cases h
    have hl : latchFaults s.ppu = false := by
      rw [← Bool.not_eq_true, ← readDataPort_eq_none s.session, hq]; simp
    rw [hq, hl, (readDataPort_eq_some hq).1]
    simp
  all_goals cases h

/-- A readable address answers. -/
theorem memRead_of_readable {a : Word} {s : State} (h : readable s a = true) : ∃ r, memRead a s = .next r := by
  unfold readable at h
  unfold memRead
  cases hr : route s.session a <;> simp only [hr] at h ⊢
  case ram => exact ⟨_, rfl⟩
  case prg => exact ⟨_, rfl⟩
  case dataPort =>
    cases hq : readDataPort s.session s.ppu with
    | none => rw [(readDataPort_eq_none ..).mp hq] at h; cases h
    | some r => exact ⟨_, rfl⟩
  all_goals cases h

/-- A readable address answers what `Peek` shows. -/
theorem memRead_eq_of_readable {a : Word} {s : State} (h : readable s a = true) :
    memRead a s = .next (peek s a, afterRead s a) := by
  obtain ⟨r, hr⟩ := memRead_of_readable h
  rw [hr, (memRead_eq_next hr).2]

/-- The one way a bus read faults: the data port with a latch that faults; nothing has changed. -/
theorem memRead_eq_fault {a : Word} {s : State} {f : Fault} (h : memRead a s = .fault f) :
    latchFaults s.ppu = true ∧ f = .invalidAddressSpace s.ppu.addr s := by
  unfold memRead at h
  split at h
  · cases h
  · cases h
  · split at h <;> rename_i hq <;> cases h
    exact ⟨(readDataPort_eq_none ..).mp hq, rfl⟩
  all_goals cases h

/-- A bus write that answers leaves the state `afterWrite` names. -/
theorem memWrite_eq_next {a : Word} {v : Byte} {s t : State} (h : memWrite a v s = .next t) :
    writable s a = true ∧ t = afterWrite s a v := by
  unfold memWrite at h
  unfold writable afterWrite
  split at h <;> rename_i hr <;> simp only [hr]
  · cases h; simp
  · cases h
  · split at h <;> rename_i hq <;> cases h
    have hl : latchFaults s.ppu = false := by
      rw [← Bool.not_eq_true, ← writeDataPort_eq_none s.session v, hq]; simp
    rw [hq, hl]; simp
  · cases h; simp
  · cases h; simp
  all_goals cases h

/-- A writable address answers. -/
theorem memWrite_of_writable {a : Word} {v : Byte} {s : State} (h : writable s a = true) :
    memWrite a v s = .next (afterWrite s a v) := by
  have hex : ∃ t, memWrite a v s = .next t := by
    unfold writable at h
    unfold memWrite
    split at h <;> rename_i hr <;> simp only [hr]
    · exact ⟨_, rfl⟩
    · exact ⟨_, rfl⟩
    · exact ⟨_, rfl⟩
    · cases hq : writeDataPort s.session v s.ppu with
      | none => rw [(writeDataPort_eq_none ..).mp hq] at h; cases h
      | some r => exact ⟨_, rfl⟩
    all_goals cases h
  obtain ⟨t, ht⟩ := hex
  rw [ht, (memWrite_eq_next ht).2]

/-- The one way a bus write faults. -/
theorem memWrite_eq_fault {a : Word} {v : Byte} {s : State} {f : Fault} (h : memWrite a v s = .fault f) :
    latchFaults s.ppu = true ∧ f = .invalidAddressSpace s.ppu.addr s := by
  unfold memWrite at h
  split at h
  · cases h
  · cases h
  · split at h <;> rename_i hq <;> cases h
    exact ⟨(writeDataPort_eq_none ..).mp hq, rfl⟩
  all_goals cases h

/-- A read of RAM or `PRG` answers what `Peek` shows and changes nothing. -/
theorem memRead_plain {a : Word} {s : State} (h : plain s a = true) : memRead a s = .next (peek s a, s) := by
  unfold plain at h
  unfold memRead peek
  split at h <;> rename_i hr <;> simp only [hr] <;> cases h

theorem memRead_ram {a : Word} {s : State} {n : Nat} (h : route s.session a = .ram n) :
    memRead a s = .next (Memory.read s.ram n, s) := by unfold memRead; rw [h]

theorem memWrite_ram {a : Word} {v : Byte} {s : State} {n : Nat} (h : route s.session a = .ram n) :
    memWrite a v s = .next (s.setRam (Memory.write s.ram n v)) := by unfold memWrite; rw [h]

theorem peek_ram {a : Word} {s : State} {n : Nat} (h : route s.session a = .ram n) :
    peek s a = Memory.read s.ram n := by unfold peek; rw [h]

theorem plain_high (s : State) {a : Word} (h : 0x8000 ≤ a.toNat) : plain s a = true := by
  unfold plain
  obtain ⟨-, hr⟩ | ⟨-, hr⟩ := route_high s.session h <;> rw [hr]

/-- Nothing but the PPU block is touched by a read. -/
theorem afterRead_eq (s : State) (a : Word) :
    afterRead s a = s ∨ ∃ buf, afterRead s a =
      s.setPpu { s.ppu with addr := (incrementVramAddress s.ppu).addr, buf := buf } := by
  unfold afterRead
  split
  · cases hq : readDataPort s.session s.ppu with
    | none => exact .inl rfl
    | some r =>
      obtain ⟨-, buf, hb⟩ := readDataPort_eq_some hq
      exact .inr ⟨buf, by rw [← hb]; rfl⟩
  all_goals exact .inl rfl

@[simp] theorem afterRead_cpu (s : State) (a : Word) : (afterRead s a).cpu = s.cpu := by
  obtain h | ⟨_, h⟩ := afterRead_eq s a <;> rw [h]; rfl

@[simp] theorem afterRead_ram (s : State) (a : Word) : (afterRead s a).ram = s.ram := by
  obtain h | ⟨_, h⟩ := afterRead_eq s a <;> rw [h]; rfl

@[simp] theorem afterRead_session (s : State) (a : Word) : (afterRead s a).session = s.session := by
  obtain h | ⟨_, h⟩ := afterRead_eq s a <;> rw [h]; rfl

@[simp] theorem afterRead_inputs (s : State) (a : Word) : (afterRead s a).inputs = s.inputs := by
  obtain h | ⟨_, h⟩ := afterRead_eq s a <;> rw [h]; rfl

@[simp] theorem afterRead_vram (s : State) (a : Word) : (afterRead s a).ppu.vram = s.ppu.vram := by
  obtain h | ⟨_, h⟩ := afterRead_eq s a <;> rw [h]; rfl

@[simp] theorem afterRead_palette (s : State) (a : Word) : (afterRead s a).ppu.palette = s.ppu.palette := by
  obtain h | ⟨_, h⟩ := afterRead_eq s a <;> rw [h]; rfl

@[simp] theorem afterRead_oam (s : State) (a : Word) : (afterRead s a).ppu.oam = s.ppu.oam := by
  obtain h | ⟨_, h⟩ := afterRead_eq s a <;> rw [h]; rfl

@[simp] theorem afterRead_ctrl (s : State) (a : Word) : (afterRead s a).ppu.ctrl = s.ppu.ctrl := by
  obtain h | ⟨_, h⟩ := afterRead_eq s a <;> rw [h]; rfl

@[simp] theorem afterRead_hiNext (s : State) (a : Word) : (afterRead s a).ppu.hiNext = s.ppu.hiNext := by
  obtain h | ⟨_, h⟩ := afterRead_eq s a <;> rw [h]; rfl

@[simp] theorem afterWrite_cpu (s : State) (a : Word) (v : Byte) : (afterWrite s a v).cpu = s.cpu := by
  unfold afterWrite; split <;> rfl

@[simp] theorem afterWrite_session (s : State) (a : Word) (v : Byte) : (afterWrite s a v).session = s.session := by
  unfold afterWrite; split <;> rfl

@[simp] theorem afterWrite_inputs (s : State) (a : Word) (v : Byte) : (afterWrite s a v).inputs = s.inputs := by
  unfold afterWrite; split <;> rfl

/-- A read of RAM or `PRG` leaves the state alone. -/
theorem afterRead_plain {s : State} {a : Word} (h : plain s a = true) : afterRead s a = s := by
  unfold plain at h
  unfold afterRead
  split at h <;> rename_i hr <;> simp only [hr] <;> cases h

/-- `Peek` of a RAM or `PRG` cell depends on RAM and the session alone. -/
theorem peek_congr {s t : State} {a : Word} (h : plain s a = true) (hs : t.session = s.session) (hr : t.ram = s.ram) :
    peek t a = peek s a := by
  unfold plain at h
  unfold peek
  rw [hs, hr]
  split at h <;> rename_i hq <;> simp only [hq] <;> cases h

theorem plain_congr {s t : State} (a : Word) (hs : t.session = s.session) : plain t a = plain s a := by
  unfold plain; rw [hs]

/-! ## The stack -/

/-- A push always answers: the byte is stored in the stack page, the pointer moves down mod 256. -/
theorem push_eq (v : Byte) (s : State) :
    push v s = .next ((s.setRam (Memory.write s.ram (stackCell s.cpu.sp) v)).setReg .sp (s.cpu.sp - 1#8)) := by
  unfold push
  rw [memWrite_ram (route_stackAddress ..)]
  rfl

/-- A pull always answers: the pointer moves up mod 256, the byte is read from the stack page. -/
theorem pull_eq (s : State) :
    pull s = .next (Memory.read s.ram (stackCell (s.cpu.sp + 1#8)), s.setReg .sp (s.cpu.sp + 1#8)) := by
  unfold pull
  rw [memRead_ram (route_stackAddress ..)]
  rfl

theorem pushWord_eq (w : Word) (s : State) :
    pushWord w s = .next
      ((s.setRam (Memory.write (Memory.write s.ram (stackCell s.cpu.sp) (hi w)) (stackCell (s.cpu.sp - 1#8)) (lo w))).setReg
        .sp (s.cpu.sp - 1#8 - 1#8)) := by
  unfold pushWord
  rw [push_eq, chain_next, push_eq]
  rfl

theorem pullWord_eq (s : State) :
    pullWord s = .next
      (join (Memory.read s.ram (stackCell (s.cpu.sp + 1#8 + 1#8))) (Memory.read s.ram (stackCell (s.cpu.sp + 1#8))),
        s.setReg .sp (s.cpu.sp + 1#8 + 1#8)) := by
  unfold pullWord
  rw [pull_eq, chain_next, pull_eq]
  rfl

theorem stackCell_range (sp : Byte) : 0x0100 ≤ stackCell sp ∧ stackCell sp < 0x0200 := by
  have := sp.isLt
  unfold stackCell
  omega

theorem stackCell_inj {a b : Byte} (h : stackCell a = stackCell b) : a = b := by
  apply BitVec.eq_of_toNat_eq
  unfold stackCell at h
  omega

/-! ## Vectors and entry -/

/-- A word read from two addresses of RAM or `PRG`. -/
theorem memRead16_plain {a : Word} {s : State} (h : plain s a = true) (h' : plain s (a + 1#16) = true) :
    memRead16 a s = .next (peek16 s a, s) := by
  unfold memRead16
  rw [memRead_plain h, chain_next, memRead_plain h', chain_next]
  rfl

/-- A word in the upper half of the address space, such as a vector, can always be read. -/
theorem memRead16_high {a : Word} (s : State) (h : 0x8000 ≤ a.toNat) (h' : a.toNat < 0xFFFF) :
    memRead16 a s = .next (peek16 s a, s) :=
  memRead16_plain (plain_high s h) (plain_high s (by simp [BitVec.toNat_add]; omega))

/-- The upper half of the address space does not see a change of the stack page. -/
theorem peek_high_of_low {s t : State} {a : Word} (h : 0x8000 ≤ a.toNat) (hs : t.session = s.session)
    (hr : ∀ n, 0x0200 ≤ n → Memory.read t.ram n = Memory.read s.ram n) : peek t a = peek s a := by
  unfold peek
  rw [hs]
  obtain ⟨-, hq⟩ | ⟨-, hq⟩ := route_high s.session h <;> simp only [hq]
  exact hr _ (by omega)

/-- Interrupt entry always answers: three pushes, `P.I` set, `PC` the word in the vector. -/
theorem enter_eq (ret : Word) (pushed : Byte) {vector : Word} (s : State) (h : 0x8000 ≤ vector.toNat)
    (h' : vector.toNat < 0xFFFF) :
    enter ret pushed vector s = .next
      { s with
        cpu := { s.cpu with
          sp := s.cpu.sp - 3#8, pc := peek16 s vector, p := putFlag s.cpu.p .interruptDisable true }
        ram := pushedThree s.ram s.cpu.sp (hi ret) (lo ret) pushed } := by
  unfold enter
  rw [pushWord_eq, chain_next, push_eq, chain_next, memRead16_high _ h h', chain_next]
  have e2 : s.cpu.sp - 1#8 - 1#8 = s.cpu.sp - 2#8 := by rw [BitVec.sub_sub]; rfl
  have e3 : s.cpu.sp - 2#8 - 1#8 = s.cpu.sp - 3#8 := by rw [BitVec.sub_sub]; rfl
  have hv : ∀ (t : State) (a : Word), 0x8000 ≤ a.toNat → t.session = s.session →
      t.ram = pushedThree s.ram s.cpu.sp (hi ret) (lo ret) pushed → peek t a = peek s a := by
    intro t a ha hs hr
    refine peek_high_of_low ha hs fun n hn => ?_
    rw [hr]
    unfold pushedThree
    have r1 := stackCell_range s.cpu.sp
    have r2 := stackCell_range (s.cpu.sp - 1#8)
    have r3 := stackCell_range (s.cpu.sp - 2#8)
    rw [Memory.read_write_other _ (by omega), Memory.read_write_other _ (by omega),
      Memory.read_write_other _ (by omega)]
  unfold peek16
  rw [hv _ vector h (by simp) (by simp [pushedThree, e2]),
    hv _ (vector + 1#16) (by simp [BitVec.toNat_add]; omega) (by simp) (by simp [pushedThree, e2])]
  simp [State.setReg, State.setRam, State.setPc, State.setFlag, State.setP, pushedThree, e2, e3]

end Sys2Proof.Machine
end

