-- ==== Sys2Proof/Laws/Operands.lean ====
section
/-!
SUPPORT. What the resolver and every shared shape of instructions can do, said once: where it completes and with what, and
that it completes nowhere else.
-/
namespace Sys2Proof.Machine
open Sys2Proof.Safety

/-! ## Addresses and operands -/

/-- The pointer bytes stand in page zero, which is RAM: the pointer is what `Peek` shows, and reading it changes nothing. -/
theorem zpPtr_eq (p : Byte) (s : State) : zpPtr p s = .next (zpPtrBy (peek s) p, s) := by
  unfold zpPtr zpPtrBy
  rw [memRead_ram (route_zext ..), chain_next, memRead_ram (route_zext ..), chain_next, peek_ram (route_zext ..),
    peek_ram (route_zext ..)]

/-- The resolver always answers the tracer's address, and changes nothing. -/
theorem resolve_eq (op : Operand) (s : State) : resolve op s = .next (peekAddress op s, s) := by
  cases op <;> simp only [resolve, peekAddress, addressBy, zpPtr_eq, chain_next]

theorem readOperand_of_readable {op : Operand} {s : State} (h : operandReadable op s = true) :
    readOperand op s = .next (operandByte op s, operandAfter op s) := by
  have hmem : ∀ a : Word, readable s a = true → memRead a s = .next (peek s a, afterRead s a) := by
    intro a ha
    obtain ⟨r, hr⟩ := memRead_of_readable ha
    rw [hr, (memRead_eq_next hr).2]
  cases op <;> simp only [operandReadable, operandByte, operandAfter, readOperand, resolve_eq, chain_next] at h ⊢ <;>
    exact hmem _ h

theorem readOperand_eq_next {op : Operand} {s : State} {r : Byte × State} (h : readOperand op s = .next r) :
    operandReadable op s = true ∧ r = (operandByte op s, operandAfter op s) := by
  cases op <;> simp only [operandReadable, operandByte, operandAfter, readOperand, resolve_eq, chain_next] at h ⊢
  · cases h; simp
  all_goals exact memRead_eq_next h

theorem readOperand_eq_fault {op : Operand} {s : State} {f : Fault} (h : readOperand op s = .fault f) :
    latchFaults s.ppu = true ∧ f = .invalidAddressSpace s.ppu.addr s := by
  cases op <;> simp only [readOperand, resolve_eq, chain_next] at h
  · cases h
  all_goals exact memRead_eq_fault h

/-- An operand read is no operand read at all, or one bus read of the effective address. -/
theorem operandAfter_eq (op : Operand) (s : State) :
    operandAfter op s = s ∨ operandAfter op s = afterRead s (peekAddress op s) := by
  cases op <;> simp [operandAfter]

@[simp] theorem operandAfter_cpu (op : Operand) (s : State) : (operandAfter op s).cpu = s.cpu := by
  obtain h | h := operandAfter_eq op s <;> rw [h]; simp

@[simp] theorem operandAfter_ram (op : Operand) (s : State) : (operandAfter op s).ram = s.ram := by
  obtain h | h := operandAfter_eq op s <;> rw [h]; simp

@[simp] theorem operandAfter_session (op : Operand) (s : State) : (operandAfter op s).session = s.session := by
  obtain h | h := operandAfter_eq op s <;> rw [h]; simp

@[simp] theorem operandAfter_inputs (op : Operand) (s : State) : (operandAfter op s).inputs = s.inputs := by
  obtain h | h := operandAfter_eq op s <;> rw [h]; simp

/-! ## The shapes: what each answers, and where -/

theorem load_eq_next {r : Reg} {op : Operand} {s t : State} :
    load r op s = .next t ↔ operandReadable op s = true ∧
      t = (((operandAfter op s).setReg r (operandByte op s)).setP (setZN (operandByte op s) s.cpu.p)).advance op.len := by
  unfold load
  rw [chain_eq_next]
  constructor
  · rintro ⟨q, hq, ht⟩
    obtain ⟨hr, rfl⟩ := readOperand_eq_next hq
    cases ht
    simp [hr]
  · rintro ⟨hr, rfl⟩
    exact ⟨_, readOperand_of_readable hr, by simp⟩

theorem accumulate_eq_next {f g : Byte → Byte → Byte → Byte} {op : Operand} {s t : State} :
    accumulate f g op s = .next t ↔ operandReadable op s = true ∧
      t = (((operandAfter op s).setReg .a (f s.cpu.a (operandByte op s) s.cpu.p)).setP
        (g s.cpu.a (operandByte op s) s.cpu.p)).advance op.len := by
  unfold accumulate
  rw [chain_eq_next]
  constructor
  · rintro ⟨q, hq, ht⟩
    obtain ⟨hr, rfl⟩ := readOperand_eq_next hq
    cases ht
    simp [hr]
  · rintro ⟨hr, rfl⟩
    exact ⟨_, readOperand_of_readable hr, by simp⟩

theorem reg_congr {s t : State} (h : t.cpu = s.cpu) (r : Reg) : t.reg r = s.reg r := by
  cases r <;> simp only [State.reg, h]

theorem examine_eq_next {g : Byte → Byte → Byte → Byte} {r : Reg} {op : Operand} {s t : State} :
    examine g r op s = .next t ↔ operandReadable op s = true ∧
      t = ((operandAfter op s).setP (g (s.reg r) (operandByte op s) s.cpu.p)).advance op.len := by
  unfold examine
  rw [chain_eq_next]
  constructor
  · rintro ⟨q, hq, ht⟩
    obtain ⟨hr, rfl⟩ := readOperand_eq_next hq
    cases ht
    simp [hr, reg_congr (operandAfter_cpu op s) r]
  · rintro ⟨hr, rfl⟩
    exact ⟨_, readOperand_of_readable hr, by simp [reg_congr (operandAfter_cpu op s) r]⟩

theorem store_eq_next {r : Reg} {op : Operand} {s t : State} :
    store r op s = .next t ↔ writable s (peekAddress op s) = true ∧
      t = (afterWrite s (peekAddress op s) (s.reg r)).advance op.len := by
  unfold store
  rw [resolve_eq, chain_next, chain_eq_next]
  constructor
  · rintro ⟨q, hq, ht⟩
    obtain ⟨hw, rfl⟩ := memWrite_eq_next hq
    cases ht
    exact ⟨hw, rfl⟩
  · rintro ⟨hw, rfl⟩
    exact ⟨_, memWrite_of_writable hw, rfl⟩

theorem modify_eq_next {f : Unary} {op : Operand} {s t : State} :
    modify f op s = .next t ↔ operandModifiable op s = true ∧
      t = ((afterWrite (afterRead s (peekAddress op s)) (peekAddress op s)
        (f (peek s (peekAddress op s)) s.cpu.p).1).setP (f (peek s (peekAddress op s)) s.cpu.p).2).advance op.len := by
  unfold modify operandModifiable
  rw [resolve_eq, chain_next, chain_eq_next]
  constructor
  · rintro ⟨m, hm, h⟩
    obtain ⟨hr, rfl⟩ := memRead_eq_next hm
    obtain ⟨q, hq, ht⟩ := chain_eq_next.mp h
    obtain ⟨hw, rfl⟩ := memWrite_eq_next hq
    cases ht
    simp [hr, hw]
  · rintro ⟨h, rfl⟩
    obtain ⟨hr, hw⟩ := Bool.and_eq_true_iff.mp h
    obtain ⟨r, hm⟩ := memRead_of_readable hr
    obtain ⟨-, rfl⟩ := memRead_eq_next hm
    exact ⟨_, hm, chain_eq_next.mpr ⟨_, memWrite_of_writable hw, by simp⟩⟩

/-! ## Faults of the shapes -/

theorem load_eq_fault {r : Reg} {op : Operand} {s : State} {f : Fault} (h : load r op s = .fault f) :
    latchFaults s.ppu = true ∧ f = .invalidAddressSpace s.ppu.addr s := by
  unfold load at h
  obtain h | ⟨_, _, h⟩ := chain_eq_fault.mp h
  · exact readOperand_eq_fault h
  · cases h

theorem accumulate_eq_fault {g g' : Byte → Byte → Byte → Byte} {op : Operand} {s : State} {f : Fault}
    (h : accumulate g g' op s = .fault f) :
    latchFaults s.ppu = true ∧ f = .invalidAddressSpace s.ppu.addr s := by
  unfold accumulate at h
  obtain h | ⟨_, _, h⟩ := chain_eq_fault.mp h
  · exact readOperand_eq_fault h
  · cases h

theorem examine_eq_fault {g : Byte → Byte → Byte → Byte} {r : Reg} {op : Operand} {s : State} {f : Fault}
    (h : examine g r op s = .fault f) :
    latchFaults s.ppu = true ∧ f = .invalidAddressSpace s.ppu.addr s := by
  unfold examine at h
  obtain h | ⟨_, _, h⟩ := chain_eq_fault.mp h
  · exact readOperand_eq_fault h
  · cases h

theorem store_eq_fault {r : Reg} {op : Operand} {s : State} {f : Fault} (h : store r op s = .fault f) :
    latchFaults s.ppu = true ∧ f = .invalidAddressSpace s.ppu.addr s := by
  unfold store at h
  rw [resolve_eq, chain_next] at h
  obtain h | ⟨_, _, h⟩ := chain_eq_fault.mp h
  · exact memWrite_eq_fault h
  · cases h

/-- A read-modify-write faults at its read, or at its write after the read has moved the latch. -/
theorem modify_eq_fault {g : Unary} {op : Operand} {s : State} {f : Fault} (h : modify g op s = .fault f) :
    ∃ t, (t = s ∨ t = afterRead s (peekAddress op s)) ∧ latchFaults t.ppu = true ∧
      f = .invalidAddressSpace t.ppu.addr t := by
  unfold modify at h
  rw [resolve_eq, chain_next] at h
  obtain h | ⟨m, hm, h⟩ := chain_eq_fault.mp h
  · exact ⟨s, .inl rfl, memRead_eq_fault h⟩
  · obtain ⟨-, rfl⟩ := memRead_eq_next hm
    obtain h | ⟨_, _, h⟩ := chain_eq_fault.mp h
    · exact ⟨_, .inr rfl, memWrite_eq_fault h⟩
    · cases h

end Sys2Proof.Machine
end

