-- ==== Sys2Proof/Laws/PerInstr.lean ====
section
/-!
SUPPORT. The family `EntryWf`, one lemma per constructor of `Instr`.
-/
namespace Sys2Proof.Laws.EntryWf
open Sys2Proof

/-- The opcode byte of the instruction has a metadata entry (spec/30_encoding.md R75), the entry is well-formed (R73, R74),
and the instruction has as many bytes as the entry says (R71). -/
def Statement (i : Instr) : Prop :=
  ∃ e, metaOf i.opcode = some e ∧ e.wf = true ∧ (encode i).length = e.len

theorem brk : Statement (.brk) := ⟨_, rfl, rfl, rfl⟩

theorem oraIzx (b : Byte) : Statement (.oraIzx b) := ⟨_, rfl, rfl, rfl⟩

theorem oraZp (b : Byte) : Statement (.oraZp b) := ⟨_, rfl, rfl, rfl⟩

theorem aslZp (b : Byte) : Statement (.aslZp b) := ⟨_, rfl, rfl, rfl⟩

theorem php : Statement (.php) := ⟨_, rfl, rfl, rfl⟩

theorem oraImm (b : Byte) : Statement (.oraImm b) := ⟨_, rfl, rfl, rfl⟩

theorem aslAcc : Statement (.aslAcc) := ⟨_, rfl, rfl, rfl⟩

theorem oraAbs (w : Word) : Statement (.oraAbs w) := ⟨_, rfl, rfl, rfl⟩

theorem aslAbs (w : Word) : Statement (.aslAbs w) := ⟨_, rfl, rfl, rfl⟩

theorem bpl (b : Byte) : Statement (.bpl b) := ⟨_, rfl, rfl, rfl⟩

theorem oraIzy (b : Byte) : Statement (.oraIzy b) := ⟨_, rfl, rfl, rfl⟩

theorem oraZpx (b : Byte) : Statement (.oraZpx b) := ⟨_, rfl, rfl, rfl⟩

theorem aslZpx (b : Byte) : Statement (.aslZpx b) := ⟨_, rfl, rfl, rfl⟩

theorem clc : Statement (.clc) := ⟨_, rfl, rfl, rfl⟩

theorem oraAby (w : Word) : Statement (.oraAby w) := ⟨_, rfl, rfl, rfl⟩

theorem oraAbx (w : Word) : Statement (.oraAbx w) := ⟨_, rfl, rfl, rfl⟩

theorem aslAbx (w : Word) : Statement (.aslAbx w) := ⟨_, rfl, rfl, rfl⟩

theorem jsr (w : Word) : Statement (.jsr w) := ⟨_, rfl, rfl, rfl⟩

theorem andIzx (b : Byte) : Statement (.andIzx b) := ⟨_, rfl, rfl, rfl⟩

theorem bitZp (b : Byte) : Statement (.bitZp b) := ⟨_, rfl, rfl, rfl⟩

theorem andZp (b : Byte) : Statement (.andZp b) := ⟨_, rfl, rfl, rfl⟩

theorem rolZp (b : Byte) : Statement (.rolZp b) := ⟨_, rfl, rfl, rfl⟩

theorem plp : Statement (.plp) := ⟨_, rfl, rfl, rfl⟩

theorem andImm (b : Byte) : Statement (.andImm b) := ⟨_, rfl, rfl, rfl⟩

theorem rolAcc : Statement (.rolAcc) := ⟨_, rfl, rfl, rfl⟩

theorem bitAbs (w : Word) : Statement (.bitAbs w) := ⟨_, rfl, rfl, rfl⟩

theorem andAbs (w : Word) : Statement (.andAbs w) := ⟨_, rfl, rfl, rfl⟩

theorem rolAbs (w : Word) : Statement (.rolAbs w) := ⟨_, rfl, rfl, rfl⟩

theorem bmi (b : Byte) : Statement (.bmi b) := ⟨_, rfl, rfl, rfl⟩

theorem andIzy (b : Byte) : Statement (.andIzy b) := ⟨_, rfl, rfl, rfl⟩

theorem andZpx (b : Byte) : Statement (.andZpx b) := ⟨_, rfl, rfl, rfl⟩

theorem rolZpx (b : Byte) : Statement (.rolZpx b) := ⟨_, rfl, rfl, rfl⟩

theorem sec : Statement (.sec) := ⟨_, rfl, rfl, rfl⟩

theorem andAby (w : Word) : Statement (.andAby w) := ⟨_, rfl, rfl, rfl⟩

theorem andAbx (w : Word) : Statement (.andAbx w) := ⟨_, rfl, rfl, rfl⟩

theorem rolAbx (w : Word) : Statement (.rolAbx w) := ⟨_, rfl, rfl, rfl⟩

theorem rti : Statement (.rti) := ⟨_, rfl, rfl, rfl⟩

theorem eorIzx (b : Byte) : Statement (.eorIzx b) := ⟨_, rfl, rfl, rfl⟩

theorem eorZp (b : Byte) : Statement (.eorZp b) := ⟨_, rfl, rfl, rfl⟩

theorem lsrZp (b : Byte) : Statement (.lsrZp b) := ⟨_, rfl, rfl, rfl⟩

theorem pha : Statement (.pha) := ⟨_, rfl, rfl, rfl⟩

theorem eorImm (b : Byte) : Statement (.eorImm b) := ⟨_, rfl, rfl, rfl⟩

theorem lsrAcc : Statement (.lsrAcc) := ⟨_, rfl, rfl, rfl⟩

theorem jmpAbs (w : Word) : Statement (.jmpAbs w) := ⟨_, rfl, rfl, rfl⟩

theorem eorAbs (w : Word) : Statement (.eorAbs w) := ⟨_, rfl, rfl, rfl⟩

theorem lsrAbs (w : Word) : Statement (.lsrAbs w) := ⟨_, rfl, rfl, rfl⟩

theorem bvc (b : Byte) : Statement (.bvc b) := ⟨_, rfl, rfl, rfl⟩

theorem eorIzy (b : Byte) : Statement (.eorIzy b) := ⟨_, rfl, rfl, rfl⟩

theorem eorZpx (b : Byte) : Statement (.eorZpx b) := ⟨_, rfl, rfl, rfl⟩

theorem lsrZpx (b : Byte) : Statement (.lsrZpx b) := ⟨_, rfl, rfl, rfl⟩

theorem cli : Statement (.cli) := ⟨_, rfl, rfl, rfl⟩

theorem eorAby (w : Word) : Statement (.eorAby w) := ⟨_, rfl, rfl, rfl⟩

theorem eorAbx (w : Word) : Statement (.eorAbx w) := ⟨_, rfl, rfl, rfl⟩

theorem lsrAbx (w : Word) : Statement (.lsrAbx w) := ⟨_, rfl, rfl, rfl⟩

theorem rts : Statement (.rts) := ⟨_, rfl, rfl, rfl⟩

theorem adcIzx (b : Byte) : Statement (.adcIzx b) := ⟨_, rfl, rfl, rfl⟩

theorem adcZp (b : Byte) : Statement (.adcZp b) := ⟨_, rfl, rfl, rfl⟩

theorem rorZp (b : Byte) : Statement (.rorZp b) := ⟨_, rfl, rfl, rfl⟩

theorem pla : Statement (.pla) := ⟨_, rfl, rfl, rfl⟩

theorem adcImm (b : Byte) : Statement (.adcImm b) := ⟨_, rfl, rfl, rfl⟩

theorem rorAcc : Statement (.rorAcc) := ⟨_, rfl, rfl, rfl⟩

theorem jmpInd (w : Word) : Statement (.jmpInd w) := ⟨_, rfl, rfl, rfl⟩

theorem adcAbs (w : Word) : Statement (.adcAbs w) := ⟨_, rfl, rfl, rfl⟩

theorem rorAbs (w : Word) : Statement (.rorAbs w) := ⟨_, rfl, rfl, rfl⟩

theorem bvs (b : Byte) : Statement (.bvs b) := ⟨_, rfl, rfl, rfl⟩

theorem adcIzy (b : Byte) : Statement (.adcIzy b) := ⟨_, rfl, rfl, rfl⟩

theorem adcZpx (b : Byte) : Statement (.adcZpx b) := ⟨_, rfl, rfl, rfl⟩

theorem rorZpx (b : Byte) : Statement (.rorZpx b) := ⟨_, rfl, rfl, rfl⟩

theorem sei : Statement (.sei) := ⟨_, rfl, rfl, rfl⟩

theorem adcAby (w : Word) : Statement (.adcAby w) := ⟨_, rfl, rfl, rfl⟩

theorem adcAbx (w : Word) : Statement (.adcAbx w) := ⟨_, rfl, rfl, rfl⟩

theorem rorAbx (w : Word) : Statement (.rorAbx w) := ⟨_, rfl, rfl, rfl⟩

theorem staIzx (b : Byte) : Statement (.staIzx b) := ⟨_, rfl, rfl, rfl⟩

theorem styZp (b : Byte) : Statement (.styZp b) := ⟨_, rfl, rfl, rfl⟩

theorem staZp (b : Byte) : Statement (.staZp b) := ⟨_, rfl, rfl, rfl⟩

theorem stxZp (b : Byte) : Statement (.stxZp b) := ⟨_, rfl, rfl, rfl⟩

theorem dey : Statement (.dey) := ⟨_, rfl, rfl, rfl⟩

theorem txa : Statement (.txa) := ⟨_, rfl, rfl, rfl⟩

theorem styAbs (w : Word) : Statement (.styAbs w) := ⟨_, rfl, rfl, rfl⟩

theorem staAbs (w : Word) : Statement (.staAbs w) := ⟨_, rfl, rfl, rfl⟩

theorem stxAbs (w : Word) : Statement (.stxAbs w) := ⟨_, rfl, rfl, rfl⟩

theorem bcc (b : Byte) : Statement (.bcc b) := ⟨_, rfl, rfl, rfl⟩

theorem staIzy (b : Byte) : Statement (.staIzy b) := ⟨_, rfl, rfl, rfl⟩

theorem styZpx (b : Byte) : Statement (.styZpx b) := ⟨_, rfl, rfl, rfl⟩

theorem staZpx (b : Byte) : Statement (.staZpx b) := ⟨_, rfl, rfl, rfl⟩

theorem stxZpy (b : Byte) : Statement (.stxZpy b) := ⟨_, rfl, rfl, rfl⟩

theorem tya : Statement (.tya) := ⟨_, rfl, rfl, rfl⟩

theorem staAby (w : Word) : Statement (.staAby w) := ⟨_, rfl, rfl, rfl⟩

theorem txs : Statement (.txs) := ⟨_, rfl, rfl, rfl⟩

theorem staAbx (w : Word) : Statement (.staAbx w) := ⟨_, rfl, rfl, rfl⟩

theorem ldyImm (b : Byte) : Statement (.ldyImm b) := ⟨_, rfl, rfl, rfl⟩

theorem ldaIzx (b : Byte) : Statement (.ldaIzx b) := ⟨_, rfl, rfl, rfl⟩

theorem ldxImm (b : Byte) : Statement (.ldxImm b) := ⟨_, rfl, rfl, rfl⟩

theorem ldyZp (b : Byte) : Statement (.ldyZp b) := ⟨_, rfl, rfl, rfl⟩

theorem ldaZp (b : Byte) : Statement (.ldaZp b) := ⟨_, rfl, rfl, rfl⟩

theorem ldxZp (b : Byte) : Statement (.ldxZp b) := ⟨_, rfl, rfl, rfl⟩

theorem tay : Statement (.tay) := ⟨_, rfl, rfl, rfl⟩

theorem ldaImm (b : Byte) : Statement (.ldaImm b) := ⟨_, rfl, rfl, rfl⟩

theorem tax : Statement (.tax) := ⟨_, rfl, rfl, rfl⟩

theorem ldyAbs (w : Word) : Statement (.ldyAbs w) := ⟨_, rfl, rfl, rfl⟩

theorem ldaAbs (w : Word) : Statement (.ldaAbs w) := ⟨_, rfl, rfl, rfl⟩

theorem ldxAbs (w : Word) : Statement (.ldxAbs w) := ⟨_, rfl, rfl, rfl⟩

theorem bcs (b : Byte) : Statement (.bcs b) := ⟨_, rfl, rfl, rfl⟩

theorem ldaIzy (b : Byte) : Statement (.ldaIzy b) := ⟨_, rfl, rfl, rfl⟩

theorem ldyZpx (b : Byte) : Statement (.ldyZpx b) := ⟨_, rfl, rfl, rfl⟩

theorem ldaZpx (b : Byte) : Statement (.ldaZpx b) := ⟨_, rfl, rfl, rfl⟩

theorem ldxZpy (b : Byte) : Statement (.ldxZpy b) := ⟨_, rfl, rfl, rfl⟩

theorem clv : Statement (.clv) := ⟨_, rfl, rfl, rfl⟩

theorem ldaAby (w : Word) : Statement (.ldaAby w) := ⟨_, rfl, rfl, rfl⟩

theorem tsx : Statement (.tsx) := ⟨_, rfl, rfl, rfl⟩

theorem ldyAbx (w : Word) : Statement (.ldyAbx w) := ⟨_, rfl, rfl, rfl⟩

theorem ldaAbx (w : Word) : Statement (.ldaAbx w) := ⟨_, rfl, rfl, rfl⟩

theorem ldxAby (w : Word) : Statement (.ldxAby w) := ⟨_, rfl, rfl, rfl⟩

theorem cpyImm (b : Byte) : Statement (.cpyImm b) := ⟨_, rfl, rfl, rfl⟩

theorem cmpIzx (b : Byte) : Statement (.cmpIzx b) := ⟨_, rfl, rfl, rfl⟩

theorem cpyZp (b : Byte) : Statement (.cpyZp b) := ⟨_, rfl, rfl, rfl⟩

theorem cmpZp (b : Byte) : Statement (.cmpZp b) := ⟨_, rfl, rfl, rfl⟩

theorem decZp (b : Byte) : Statement (.decZp b) := ⟨_, rfl, rfl, rfl⟩

theorem iny : Statement (.iny) := ⟨_, rfl, rfl, rfl⟩

theorem cmpImm (b : Byte) : Statement (.cmpImm b) := ⟨_, rfl, rfl, rfl⟩

theorem dex : Statement (.dex) := ⟨_, rfl, rfl, rfl⟩

theorem cpyAbs (w : Word) : Statement (.cpyAbs w) := ⟨_, rfl, rfl, rfl⟩

theorem cmpAbs (w : Word) : Statement (.cmpAbs w) := ⟨_, rfl, rfl, rfl⟩

theorem decAbs (w : Word) : Statement (.decAbs w) := ⟨_, rfl, rfl, rfl⟩

theorem bne (b : Byte) : Statement (.bne b) := ⟨_, rfl, rfl, rfl⟩

theorem cmpIzy (b : Byte) : Statement (.cmpIzy b) := ⟨_, rfl, rfl, rfl⟩

theorem cmpZpx (b : Byte) : Statement (.cmpZpx b) := ⟨_, rfl, rfl, rfl⟩

theorem decZpx (b : Byte) : Statement (.decZpx b) := ⟨_, rfl, rfl, rfl⟩

theorem cld : Statement (.cld) := ⟨_, rfl, rfl, rfl⟩

theorem cmpAby (w : Word) : Statement (.cmpAby w) := ⟨_, rfl, rfl, rfl⟩

theorem cmpAbx (w : Word) : Statement (.cmpAbx w) := ⟨_, rfl, rfl, rfl⟩

theorem decAbx (w : Word) : Statement (.decAbx w) := ⟨_, rfl, rfl, rfl⟩

theorem cpxImm (b : Byte) : Statement (.cpxImm b) := ⟨_, rfl, rfl, rfl⟩

theorem sbcIzx (b : Byte) : Statement (.sbcIzx b) := ⟨_, rfl, rfl, rfl⟩

theorem cpxZp (b : Byte) : Statement (.cpxZp b) := ⟨_, rfl, rfl, rfl⟩

theorem sbcZp (b : Byte) : Statement (.sbcZp b) := ⟨_, rfl, rfl, rfl⟩

theorem incZp (b : Byte) : Statement (.incZp b) := ⟨_, rfl, rfl, rfl⟩

theorem inx : Statement (.inx) := ⟨_, rfl, rfl, rfl⟩

theorem sbcImm (b : Byte) : Statement (.sbcImm b) := ⟨_, rfl, rfl, rfl⟩

theorem nop : Statement (.nop) := ⟨_, rfl, rfl, rfl⟩

theorem cpxAbs (w : Word) : Statement (.cpxAbs w) := ⟨_, rfl, rfl, rfl⟩

theorem sbcAbs (w : Word) : Statement (.sbcAbs w) := ⟨_, rfl, rfl, rfl⟩

theorem incAbs (w : Word) : Statement (.incAbs w) := ⟨_, rfl, rfl, rfl⟩

theorem beq (b : Byte) : Statement (.beq b) := ⟨_, rfl, rfl, rfl⟩

theorem sbcIzy (b : Byte) : Statement (.sbcIzy b) := ⟨_, rfl, rfl, rfl⟩

theorem sbcZpx (b : Byte) : Statement (.sbcZpx b) := ⟨_, rfl, rfl, rfl⟩

theorem incZpx (b : Byte) : Statement (.incZpx b) := ⟨_, rfl, rfl, rfl⟩

theorem sed : Statement (.sed) := ⟨_, rfl, rfl, rfl⟩

theorem sbcAby (w : Word) : Statement (.sbcAby w) := ⟨_, rfl, rfl, rfl⟩

theorem sbcAbx (w : Word) : Statement (.sbcAbx w) := ⟨_, rfl, rfl, rfl⟩

theorem incAbx (w : Word) : Statement (.incAbx w) := ⟨_, rfl, rfl, rfl⟩

end Sys2Proof.Laws.EntryWf
end

