-- ==== Sys2Proof/Laws/Shapes.lean ====
section
/-!
SUPPORT. Every instruction is one of a few shapes: what `exec` does with it, said once. A claim over all instructions is
proved by cases on the shape.
-/
namespace Sys2Proof.Machine
open Sys2Proof.Safety

inductive AluKind where
  | adc | sbc | and | ora | eor
  deriving DecidableEq, Repr

inductive TestKind where
  | cmp | cpx | cpy | bit
  deriving DecidableEq, Repr

inductive ModifyKind where
  | asl | lsr | rol | ror | inc | dec
  deriving DecidableEq, Repr

inductive ShiftKind where
  | asl | lsr | rol | ror
  deriving DecidableEq, Repr

inductive CountKind where
  | inx | iny | dex | dey
  deriving DecidableEq, Repr

inductive MoveKind where
  | tax | tay | txa | tya | tsx
  deriving DecidableEq, Repr

inductive FlagKind where
  | clc | sec | cli | sei | cld | sed | clv
  deriving DecidableEq, Repr

inductive BranchKind where
  | bpl | bmi | bvc | bvs | bcc | bcs | bne | beq
  deriving DecidableEq, Repr

inductive Shape where
  | load (r : Reg) (op : Operand)
  | store (r : Reg) (op : Operand)
  | alu (k : AluKind) (op : Operand)
  | test (k : TestKind) (op : Operand)
  | memory (k : ModifyKind) (op : Operand)
  | accumulator (k : ShiftKind)
  | count (k : CountKind)
  | move (k : MoveKind)
  | txs | nop
  | flag (k : FlagKind)
  | branch (k : BranchKind) (b : Byte)
  | jump (w : Word)
  | jumpVia (w : Word)
  | call (w : Word)
  | ret | rti | brk | pha | php | pla | plp
  deriving DecidableEq, Repr

/-- The new accumulator of an accumulator operation. -/
def AluKind.value (k : AluKind) (a m p : Byte) : Byte :=
  match k with
  | .adc => adcResult a m p
  | .sbc => adcResult a (m ^^^ 0xFF#8) p
  | .and => a &&& m
  | .ora => a ||| m
  | .eor => a ^^^ m

/-- The new status byte of an accumulator operation. -/
def AluKind.status (k : AluKind) (a m p : Byte) : Byte :=
  match k with
  | .adc => adcStatus a m p
  | .sbc => adcStatus a (m ^^^ 0xFF#8) p
  | .and => setZN (a &&& m) p
  | .ora => setZN (a ||| m) p
  | .eor => setZN (a ^^^ m) p

/-- The register a compare or bit test looks at. -/
def TestKind.reg (k : TestKind) : Reg :=
  match k with
  | .cmp => .a
  | .cpx => .x
  | .cpy => .y
  | .bit => .a

/-- The new status byte of a compare or bit test. -/
def TestKind.status (k : TestKind) (r m p : Byte) : Byte :=
  match k with
  | .cmp => compareStatus r m p
  | .cpx => compareStatus r m p
  | .cpy => compareStatus r m p
  | .bit => bitStatus r m p

def ModifyKind.op (k : ModifyKind) : Unary :=
  match k with
  | .asl => aslOp
  | .lsr => lsrOp
  | .rol => rolOp
  | .ror => rorOp
  | .inc => incOp
  | .dec => decOp

def ShiftKind.op (k : ShiftKind) : Unary :=
  match k with
  | .asl => aslOp
  | .lsr => lsrOp
  | .rol => rolOp
  | .ror => rorOp

def CountKind.reg (k : CountKind) : Reg :=
  match k with
  | .inx => .x
  | .iny => .y
  | .dex => .x
  | .dey => .y

def CountKind.op (k : CountKind) : Unary :=
  match k with
  | .inx => incOp
  | .iny => incOp
  | .dex => decOp
  | .dey => decOp

def MoveKind.source (k : MoveKind) : Reg :=
  match k with
  | .tax => .a
  | .tay => .a
  | .txa => .x
  | .tya => .y
  | .tsx => .sp

def MoveKind.target (k : MoveKind) : Reg :=
  match k with
  | .tax => .x
  | .tay => .y
  | .txa => .a
  | .tya => .a
  | .tsx => .x

def FlagKind.flag (k : FlagKind) : Flag :=
  match k with
  | .clc => .carry
  | .sec => .carry
  | .cli => .interruptDisable
  | .sei => .interruptDisable
  | .cld => .decimal
  | .sed => .decimal
  | .clv => .overflow

def FlagKind.value (k : FlagKind) : Bool :=
  match k with
  | .clc => false
  | .sec => true
  | .cli => false
  | .sei => true
  | .cld => false
  | .sed => true
  | .clv => false

def BranchKind.taken (k : BranchKind) (s : State) : Bool :=
  match k with
  | .bpl => !s.flag .negative
  | .bmi => s.flag .negative
  | .bvc => !s.flag .overflow
  | .bvs => s.flag .overflow
  | .bcc => !s.flag .carry
  | .bcs => s.flag .carry
  | .bne => !s.flag .zero
  | .beq => s.flag .zero

/-- What an instruction of the shape does. -/
def Shape.run (k : Shape) (s : State) : Res State :=
  match k with
  | .load r op => Machine.load r op s
  | .store r op => Machine.store r op s
  | .alu k op => accumulate k.value k.status op s
  | .test k op => examine k.status k.reg op s
  | .memory k op => modify k.op op s
  | .accumulator k => modifyReg k.op .a s
  | .count k => modifyReg k.op k.reg s
  | .move k => transfer k.source k.target s
  | .txs => .next ((s.setReg .sp s.cpu.x).advance 1)
  | .nop => .next (s.advance 1)
  | .flag k => writeFlag k.flag k.value s
  | .branch k b => Machine.branch (k.taken s) b s
  | .jump w => .next (s.setPc w)
  | .jumpVia w => execJmpInd w s
  | .call w => execJsr w s
  | .ret => execRts s
  | .rti => execRti s
  | .brk => execBrk s
  | .pha => execPha s
  | .php => execPhp s
  | .pla => execPla s
  | .plp => execPlp s

/-- The mnemonic of a shape. -/
def Shape.mnemonic (k : Shape) : Mnemonic :=
  match k with
  | .load .a _ => .lda
  | .load .x _ => .ldx
  | .load .y _ => .ldy
  | .load .sp _ => .ldy
  | .store .a _ => .sta
  | .store .x _ => .stx
  | .store .y _ => .sty
  | .store .sp _ => .sty
  | .alu .adc _ => .adc
  | .alu .sbc _ => .sbc
  | .alu .and _ => .and
  | .alu .ora _ => .ora
  | .alu .eor _ => .eor
  | .test .cmp _ => .cmp
  | .test .cpx _ => .cpx
  | .test .cpy _ => .cpy
  | .test .bit _ => .bit
  | .memory .asl _ => .asl
  | .memory .lsr _ => .lsr
  | .memory .rol _ => .rol
  | .memory .ror _ => .ror
  | .memory .inc _ => .inc
  | .memory .dec _ => .dec
  | .accumulator .asl => .asl
  | .accumulator .lsr => .lsr
  | .accumulator .rol => .rol
  | .accumulator .ror => .ror
  | .count .inx => .inx
  | .count .iny => .iny
  | .count .dex => .dex
  | .count .dey => .dey
  | .move .tax => .tax
  | .move .tay => .tay
  | .move .txa => .txa
  | .move .tya => .tya
  | .move .tsx => .tsx
  | .txs => .txs
  | .nop => .nop
  | .flag .clc => .clc
  | .flag .sec => .sec
  | .flag .cli => .cli
  | .flag .sei => .sei
  | .flag .cld => .cld
  | .flag .sed => .sed
  | .flag .clv => .clv
  | .branch .bpl _ => .bpl
  | .branch .bmi _ => .bmi
  | .branch .bvc _ => .bvc
  | .branch .bvs _ => .bvs
  | .branch .bcc _ => .bcc
  | .branch .bcs _ => .bcs
  | .branch .bne _ => .bne
  | .branch .beq _ => .beq
  | .jump _ => .jmp
  | .jumpVia _ => .jmp
  | .call _ => .jsr
  | .ret => .rts
  | .rti => .rti
  | .brk => .brk
  | .pha => .pha
  | .php => .php
  | .pla => .pla
  | .plp => .plp

/-- The length in bytes of an instruction of the shape. -/
def Shape.len (k : Shape) : Nat :=
  match k with
  | .load _ op => op.len
  | .store _ op => op.len
  | .alu _ op => op.len
  | .test _ op => op.len
  | .memory _ op => op.len
  | .branch _ _ => 2
  | .jump _ => 3
  | .jumpVia _ => 3
  | .call _ => 3
  | .accumulator _ => 1
  | .count _ => 1
  | .move _ => 1
  | .txs => 1
  | .nop => 1
  | .flag _ => 1
  | .ret => 1
  | .rti => 1
  | .brk => 1
  | .pha => 1
  | .php => 1
  | .pla => 1
  | .plp => 1

/-- The shape of an instruction. -/
def shapeOf (i : Instr) : Shape :=
  match i with
  | .brk => .brk
  | .oraIzx b => .alu .ora (.izx b)
  | .oraZp b => .alu .ora (.zp b)
  | .aslZp b => .memory .asl (.zp b)
  | .php => .php
  | .oraImm b => .alu .ora (.imm b)
  | .aslAcc => .accumulator .asl
  | .oraAbs w => .alu .ora (.abs w)
  | .aslAbs w => .memory .asl (.abs w)
  | .bpl b => .branch .bpl b
  | .oraIzy b => .alu .ora (.izy b)
  | .oraZpx b => .alu .ora (.zpx b)
  | .aslZpx b => .memory .asl (.zpx b)
  | .clc => .flag .clc
  | .oraAby w => .alu .ora (.aby w)
  | .oraAbx w => .alu .ora (.abx w)
  | .aslAbx w => .memory .asl (.abx w)
  | .jsr w => .call w
  | .andIzx b => .alu .and (.izx b)
  | .bitZp b => .test .bit (.zp b)
  | .andZp b => .alu .and (.zp b)
  | .rolZp b => .memory .rol (.zp b)
  | .plp => .plp
  | .andImm b => .alu .and (.imm b)
  | .rolAcc => .accumulator .rol
  | .bitAbs w => .test .bit (.abs w)
  | .andAbs w => .alu .and (.abs w)
  | .rolAbs w => .memory .rol (.abs w)
  | .bmi b => .branch .bmi b
  | .andIzy b => .alu .and (.izy b)
  | .andZpx b => .alu .and (.zpx b)
  | .rolZpx b => .memory .rol (.zpx b)
  | .sec => .flag .sec
  | .andAby w => .alu .and (.aby w)
  | .andAbx w => .alu .and (.abx w)
  | .rolAbx w => .memory .rol (.abx w)
  | .rti => .rti
  | .eorIzx b => .alu .eor (.izx b)
  | .eorZp b => .alu .eor (.zp b)
  | .lsrZp b => .memory .lsr (.zp b)
  | .pha => .pha
  | .eorImm b => .alu .eor (.imm b)
  | .lsrAcc => .accumulator .lsr
  | .jmpAbs w => .jump w
  | .eorAbs w => .alu .eor (.abs w)
  | .lsrAbs w => .memory .lsr (.abs w)
  | .bvc b => .branch .bvc b
  | .eorIzy b => .alu .eor (.izy b)
  | .eorZpx b => .alu .eor (.zpx b)
  | .lsrZpx b => .memory .lsr (.zpx b)
  | .cli => .flag .cli
  | .eorAby w => .alu .eor (.aby w)
  | .eorAbx w => .alu .eor (.abx w)
  | .lsrAbx w => .memory .lsr (.abx w)
  | .rts => .ret
  | .adcIzx b => .alu .adc (.izx b)
  | .adcZp b => .alu .adc (.zp b)
  | .rorZp b => .memory .ror (.zp b)
  | .pla => .pla
  | .adcImm b => .alu .adc (.imm b)
  | .rorAcc => .accumulator .ror
  | .jmpInd w => .jumpVia w
  | .adcAbs w => .alu .adc (.abs w)
  | .rorAbs w => .memory .ror (.abs w)
  | .bvs b => .branch .bvs b
  | .adcIzy b => .alu .adc (.izy b)
  | .adcZpx b => .alu .adc (.zpx b)
  | .rorZpx b => .memory .ror (.zpx b)
  | .sei => .flag .sei
  | .adcAby w => .alu .adc (.aby w)
  | .adcAbx w => .alu .adc (.abx w)
  | .rorAbx w => .memory .ror (.abx w)
  | .staIzx b => .store .a (.izx b)
  | .styZp b => .store .y (.zp b)
  | .staZp b => .store .a (.zp b)
  | .stxZp b => .store .x (.zp b)
  | .dey => .count .dey
  | .txa => .move .txa
  | .styAbs w => .store .y (.abs w)
  | .staAbs w => .store .a (.abs w)
  | .stxAbs w => .store .x (.abs w)
  | .bcc b => .branch .bcc b
  | .staIzy b => .store .a (.izy b)
  | .styZpx b => .store .y (.zpx b)
  | .staZpx b => .store .a (.zpx b)
  | .stxZpy b => .store .x (.zpy b)
  | .tya => .move .tya
  | .staAby w => .store .a (.aby w)
  | .txs => .txs
  | .staAbx w => .store .a (.abx w)
  | .ldyImm b => .load .y (.imm b)
  | .ldaIzx b => .load .a (.izx b)
  | .ldxImm b => .load .x (.imm b)
  | .ldyZp b => .load .y (.zp b)
  | .ldaZp b => .load .a (.zp b)
  | .ldxZp b => .load .x (.zp b)
  | .tay => .move .tay
  | .ldaImm b => .load .a (.imm b)
  | .tax => .move .tax
  | .ldyAbs w => .load .y (.abs w)
  | .ldaAbs w => .load .a (.abs w)
  | .ldxAbs w => .load .x (.abs w)
  | .bcs b => .branch .bcs b
  | .ldaIzy b => .load .a (.izy b)
  | .ldyZpx b => .load .y (.zpx b)
  | .ldaZpx b => .load .a (.zpx b)
  | .ldxZpy b => .load .x (.zpy b)
  | .clv => .flag .clv
  | .ldaAby w => .load .a (.aby w)
  | .tsx => .move .tsx
  | .ldyAbx w => .load .y (.abx w)
  | .ldaAbx w => .load .a (.abx w)
  | .ldxAby w => .load .x (.aby w)
  | .cpyImm b => .test .cpy (.imm b)
  | .cmpIzx b => .test .cmp (.izx b)
  | .cpyZp b => .test .cpy (.zp b)
  | .cmpZp b => .test .cmp (.zp b)
  | .decZp b => .memory .dec (.zp b)
  | .iny => .count .iny
  | .cmpImm b => .test .cmp (.imm b)
  | .dex => .count .dex
  | .cpyAbs w => .test .cpy (.abs w)
  | .cmpAbs w => .test .cmp (.abs w)
  | .decAbs w => .memory .dec (.abs w)
  | .bne b => .branch .bne b
  | .cmpIzy b => .test .cmp (.izy b)
  | .cmpZpx b => .test .cmp (.zpx b)
  | .decZpx b => .memory .dec (.zpx b)
  | .cld => .flag .cld
  | .cmpAby w => .test .cmp (.aby w)
  | .cmpAbx w => .test .cmp (.abx w)
  | .decAbx w => .memory .dec (.abx w)
  | .cpxImm b => .test .cpx (.imm b)
  | .sbcIzx b => .alu .sbc (.izx b)
  | .cpxZp b => .test .cpx (.zp b)
  | .sbcZp b => .alu .sbc (.zp b)
  | .incZp b => .memory .inc (.zp b)
  | .inx => .count .inx
  | .sbcImm b => .alu .sbc (.imm b)
  | .nop => .nop
  | .cpxAbs w => .test .cpx (.abs w)
  | .sbcAbs w => .alu .sbc (.abs w)
  | .incAbs w => .memory .inc (.abs w)
  | .beq b => .branch .beq b
  | .sbcIzy b => .alu .sbc (.izy b)
  | .sbcZpx b => .alu .sbc (.zpx b)
  | .incZpx b => .memory .inc (.zpx b)
  | .sed => .flag .sed
  | .sbcAby w => .alu .sbc (.aby w)
  | .sbcAbx w => .alu .sbc (.abx w)
  | .incAbx w => .memory .inc (.abx w)

/-- What an instruction does is what its shape does. -/
theorem exec_eq_run (i : Instr) (s : State) : exec i s = (shapeOf i).run s := by
  cases i <;> rfl

/-- The mnemonic of an instruction is that of its shape. -/
theorem mnemonicOf_eq (i : Instr) : mnemonicOf i = some (shapeOf i).mnemonic := by
  cases i <;> rfl

/-- The metadata entry of an instruction has the mnemonic and the length of its shape. -/
theorem metaOf_opcode (i : Instr) :
    ∃ e, metaOf i.opcode = some e ∧ e.mnemonic = (shapeOf i).mnemonic ∧ e.len = (shapeOf i).len := by
  cases i <;> exact ⟨_, rfl, rfl, rfl⟩

/-- No shape loads or stores the stack pointer. -/
theorem shapeOf_regs (i : Instr) :
    (∀ op, shapeOf i ≠ .load .sp op) ∧ ∀ op, shapeOf i ≠ .store .sp op := by
  cases i <;> exact ⟨nofun, nofun⟩

end Sys2Proof.Machine
end

