-- ==== Sys2Proof/Laws/Step.lean ====
section
/-!
SUPPORT. What the fetch and the step can do, said once: the fetch only reads; a step is a reset, an interrupt, or a fetched
instruction.
-/
namespace Sys2Proof.Machine
open Sys2Proof.Safety

/-- The states that bus reads alone lead to. -/
inductive ReadsFrom (s : State) : State → Prop where
  | refl : ReadsFrom s s
  | read (t : State) (a : Word) : ReadsFrom s t → ReadsFrom s (afterRead t a)

/-- Reads change the latch and the buffer at most. -/
theorem ReadsFrom.kept {s t : State} (h : ReadsFrom s t) :
    t.cpu = s.cpu ∧ t.ram = s.ram ∧ t.session = s.session ∧ t.inputs = s.inputs ∧ t.ppu.vram = s.ppu.vram ∧
      t.ppu.palette = s.ppu.palette ∧ t.ppu.oam = s.ppu.oam ∧ t.ppu.ctrl = s.ppu.ctrl ∧ t.ppu.hiNext = s.ppu.hiNext := by
  induction h with
  | refl => simp
  | read t a _ ih => simpa using ih

/-- A byte with an entry assembles, whatever its operand bytes. -/
theorem assemble_of_metaOf {op : Byte} {e : MetaEntry} (h : metaOf op = some e) (b1 b2 : Byte) :
    assemble op b1 b2 ≠ none := by
  have hall : metaTable.all (fun row => (assemble row.1 b1 b2).isSome) = true := by
    simp only [metaTable, List.all_append, Bool.and_eq_true]
    and_intros <;> rfl
  obtain ⟨row, hrow, -⟩ := Option.map_eq_some_iff.mp h
  have hop : row.1 = op := by simpa using List.find?_some hrow
  have := List.all_eq_true.mp hall row (List.mem_of_find?_eq_some hrow)
  rw [hop] at this
  intro hn
  rw [hn] at this
  cases this

/-- The fetch answers an instruction after reads alone. -/
theorem fetch_eq_next {s : State} {r : Instr × State} (h : fetch s = .next r) : ReadsFrom s r.2 := by
  unfold fetch fetchOpcode at h
  obtain ⟨q, hq, h⟩ := chain_eq_next.mp h
  obtain ⟨-, rfl⟩ := memRead_eq_next hq
  have r1 := ReadsFrom.read s s.cpu.pc .refl
  dsimp only at h
  have hf : ∀ op b1 b2 t, fetched op b1 b2 t = .next r → r.2 = t := by
    intro op b1 b2 t hf
    unfold fetched at hf
    split at hf <;> cases hf
    rfl
  split at h
  · cases h
  · unfold fetchOperands at h
    split at h
    · rw [hf _ _ _ _ h]; exact r1
    · obtain ⟨q, hq, h⟩ := chain_eq_next.mp h
      obtain ⟨-, rfl⟩ := memRead_eq_next hq
      split at h
      · rw [hf _ _ _ _ h]; exact .read _ _ r1
      · obtain ⟨q, hq, h⟩ := chain_eq_next.mp h
        obtain ⟨-, rfl⟩ := memRead_eq_next hq
        rw [hf _ _ _ _ h]; exact .read _ _ (.read _ _ r1)

/-- How the fetch faults: a read of the data port, or an unknown byte. -/
theorem fetch_eq_fault {s : State} {f : Fault} (h : fetch s = .fault f) :
    ∃ t, ReadsFrom s t ∧ ((latchFaults t.ppu = true ∧ f = .invalidAddressSpace t.ppu.addr t) ∨
      ∃ op, metaOf op = none ∧ f = .invalidOpcode s.cpu.pc op t) := by
  unfold fetch fetchOpcode at h
  rcases chain_eq_fault.mp h with h | ⟨q, hq, h⟩
  · exact ⟨s, .refl, .inl (memRead_eq_fault h)⟩
  obtain ⟨-, rfl⟩ := memRead_eq_next hq
  have r1 := ReadsFrom.read s s.cpu.pc .refl
  dsimp only at h
  split at h
  · cases h
    exact ⟨_, r1, .inr ⟨_, ‹_›, rfl⟩⟩
  · rename_i e he
    have hf : ∀ b1 b2 t, fetched (peek s s.cpu.pc) b1 b2 t ≠ .fault f := by
      intro b1 b2 t hf
      unfold fetched at hf
      split at hf
      · cases hf
      · exact assemble_of_metaOf he b1 b2 ‹_›
    unfold fetchOperands at h
    split at h
    · exact absurd h (hf _ _ _)
    · rcases chain_eq_fault.mp h with h | ⟨q, hq, h⟩
      · exact ⟨_, r1, .inl (memRead_eq_fault h)⟩
      obtain ⟨-, rfl⟩ := memRead_eq_next hq
      split at h
      · exact absurd h (hf _ _ _)
      · rcases chain_eq_fault.mp h with h | ⟨q, hq, h⟩
        · exact ⟨_, .read _ _ r1, .inl (memRead_eq_fault h)⟩
        · exact absurd h (hf _ _ _)

/-- What a step that answers did: a reset, an interrupt, or a fetched instruction. -/
theorem step_eq_next {s t : State} (h : step s = .next t) :
    (dueEvent s = .reset ∧
      t = { cpu := Cpu.atReset (peek16 s Config.resetVector), ppu := Ppu.atReset, ram := s.ram, session := s.session,
            inputs := s.inputs.tail }) ∨
    (dueEvent s = .nmi ∧ takeNmi (passBoundary s) = .next t) ∨
    (dueEvent s = .irq ∧ takeIrq (passBoundary s) = .next t) ∨
    (dueEvent s = .instruction ∧ ∃ i q, ReadsFrom (passBoundary s) q ∧ exec i q = .next t) := by
  unfold step at h
  split at h <;> rename_i hd
  · refine .inl ⟨hd, ?_⟩
    unfold hostReset at h
    rw [memRead16_high _ (by decide) (by decide), chain_next] at h
    cases h; rfl
  · exact .inr (.inl ⟨hd, h⟩)
  · exact .inr (.inr (.inl ⟨hd, h⟩))
  · obtain ⟨r, hr, h⟩ := chain_eq_next.mp (abandon_eq_next.mp h)
    exact .inr (.inr (.inr ⟨hd, r.1, r.2, fetch_eq_next hr, h⟩))

end Sys2Proof.Machine
end

