-- ==== Sys2Proof/Tests/Slice0.lean ====
section
/-!
SUPPORT. Tests of this model. The expected results are those of spec/95_test_vectors.md, whose vector a comment names, or
are read off the encoding tables of spec/30_encoding.md. After them, one witness for the hypotheses of every statement of
the certificate that has any, at a boundary value of every clause.
-/
namespace Sys2Proof.Tests
open Sys2Proof Sys2Proof.Machine Sys2Proof.Safety

/-! ## Well-formedness: every check refuses an ill-formed term -/

def entry (len : Nat) (mode : Mode) (form : OperandForm) : MetaEntry :=
  { mnemonic := .lda, len := len, cycles := 2, mode := mode, form := form }

theorem test_entry_accepted : (entry 2 .immediate .imm).wf = true := by decide

theorem test_entry_length_refused :
    (entry 0 .none .imp).lenOk = false ∧ (entry 4 .none .jabs).lenOk = false ∧ (entry 4 .none .jabs).wf = false := by decide

theorem test_entry_mode_refused :
    (entry 3 .immediate .imm).modeOk = false ∧ (entry 2 .absolute .abs).modeOk = false ∧
    (entry 1 .indirectY .izy).wf = false := by decide

theorem test_entry_form_refused :
    (entry 2 .zeroPage .zpx).formOk = false ∧ (entry 2 .none .jabs).formOk = false ∧ (entry 1 .none .rel).wf = false := by
  decide

theorem test_memory_form_refused :
    Memory.wf [(2, 0x01#8), (1, 0x01#8)] = false ∧ Memory.wf [(1, 0x01#8), (1, 0x02#8)] = false ∧
    Memory.wf [(1, 0x00#8)] = false ∧ Memory.within 32 [(32, 0x01#8)] = false ∧
    Memory.wf [(1, 0x01#8), (2, 0x02#8)] = true := by decide

/-- Writing what an unlisted address reads as removes the cell. -/
theorem test_memory_write_removes :
    Memory.write [(1, 0x01#8), (2, 0x02#8)] 1 0x00#8 = [(2, 0x02#8)] ∧
    Memory.write [(2, 0x02#8)] 1 0x07#8 = [(1, 0x07#8), (2, 0x02#8)] := by decide

/-! ## Decoding: every constructor, from the encoding of spec/30_encoding.md R75, R76, operands 0x37 and 0x1234 -/

theorem test_decode_loads :
    decodeTableWord 16 0x37A1 = some (.ldaIzx 0x37#8) ∧
    decodeTableWord 16 0x37A5 = some (.ldaZp 0x37#8) ∧
    decodeTableWord 16 0x37A9 = some (.ldaImm 0x37#8) ∧
    decodeTableWord 24 0x1234AD = some (.ldaAbs 0x1234#16) ∧
    decodeTableWord 16 0x37B1 = some (.ldaIzy 0x37#8) ∧
    decodeTableWord 16 0x37B5 = some (.ldaZpx 0x37#8) ∧
    decodeTableWord 24 0x1234B9 = some (.ldaAby 0x1234#16) ∧
    decodeTableWord 24 0x1234BD = some (.ldaAbx 0x1234#16) ∧
    decodeTableWord 16 0x37A2 = some (.ldxImm 0x37#8) ∧
    decodeTableWord 16 0x37A6 = some (.ldxZp 0x37#8) ∧
    decodeTableWord 24 0x1234AE = some (.ldxAbs 0x1234#16) ∧
    decodeTableWord 16 0x37B6 = some (.ldxZpy 0x37#8) ∧
    decodeTableWord 24 0x1234BE = some (.ldxAby 0x1234#16) ∧
    decodeTableWord 16 0x37A0 = some (.ldyImm 0x37#8) ∧
    decodeTableWord 16 0x37A4 = some (.ldyZp 0x37#8) ∧
    decodeTableWord 24 0x1234AC = some (.ldyAbs 0x1234#16) ∧
    decodeTableWord 16 0x37B4 = some (.ldyZpx 0x37#8) ∧
    decodeTableWord 24 0x1234BC = some (.ldyAbx 0x1234#16) := by decide

theorem test_decode_stores :
    decodeTableWord 16 0x3781 = some (.staIzx 0x37#8) ∧
    decodeTableWord 16 0x3785 = some (.staZp 0x37#8) ∧
    decodeTableWord 24 0x12348D = some (.staAbs 0x1234#16) ∧
    decodeTableWord 16 0x3791 = some (.staIzy 0x37#8) ∧
    decodeTableWord 16 0x3795 = some (.staZpx 0x37#8) ∧
    decodeTableWord 24 0x123499 = some (.staAby 0x1234#16) ∧
    decodeTableWord 24 0x12349D = some (.staAbx 0x1234#16) ∧
    decodeTableWord 16 0x3786 = some (.stxZp 0x37#8) ∧
    decodeTableWord 24 0x12348E = some (.stxAbs 0x1234#16) ∧
    decodeTableWord 16 0x3796 = some (.stxZpy 0x37#8) ∧
    decodeTableWord 16 0x3784 = some (.styZp 0x37#8) ∧
    decodeTableWord 24 0x12348C = some (.styAbs 0x1234#16) ∧
    decodeTableWord 16 0x3794 = some (.styZpx 0x37#8) := by decide

theorem test_decode_transfers :
    decodeTableWord 8 0xAA = some .tax ∧
    decodeTableWord 8 0xA8 = some .tay ∧
    decodeTableWord 8 0x8A = some .txa ∧
    decodeTableWord 8 0x98 = some .tya ∧
    decodeTableWord 8 0xBA = some .tsx ∧
    decodeTableWord 8 0x9A = some .txs := by decide

theorem test_decode_adc_sbc :
    decodeTableWord 16 0x3761 = some (.adcIzx 0x37#8) ∧
    decodeTableWord 16 0x3765 = some (.adcZp 0x37#8) ∧
    decodeTableWord 16 0x3769 = some (.adcImm 0x37#8) ∧
    decodeTableWord 24 0x12346D = some (.adcAbs 0x1234#16) ∧
    decodeTableWord 16 0x3771 = some (.adcIzy 0x37#8) ∧
    decodeTableWord 16 0x3775 = some (.adcZpx 0x37#8) ∧
    decodeTableWord 24 0x123479 = some (.adcAby 0x1234#16) ∧
    decodeTableWord 24 0x12347D = some (.adcAbx 0x1234#16) ∧
    decodeTableWord 16 0x37E1 = some (.sbcIzx 0x37#8) ∧
    decodeTableWord 16 0x37E5 = some (.sbcZp 0x37#8) ∧
    decodeTableWord 16 0x37E9 = some (.sbcImm 0x37#8) ∧
    decodeTableWord 24 0x1234ED = some (.sbcAbs 0x1234#16) ∧
    decodeTableWord 16 0x37F1 = some (.sbcIzy 0x37#8) ∧
    decodeTableWord 16 0x37F5 = some (.sbcZpx 0x37#8) ∧
    decodeTableWord 24 0x1234F9 = some (.sbcAby 0x1234#16) ∧
    decodeTableWord 24 0x1234FD = some (.sbcAbx 0x1234#16) := by decide

theorem test_decode_logic :
    decodeTableWord 16 0x3721 = some (.andIzx 0x37#8) ∧
    decodeTableWord 16 0x3725 = some (.andZp 0x37#8) ∧
    decodeTableWord 16 0x3729 = some (.andImm 0x37#8) ∧
    decodeTableWord 24 0x12342D = some (.andAbs 0x1234#16) ∧
    decodeTableWord 16 0x3731 = some (.andIzy 0x37#8) ∧
    decodeTableWord 16 0x3735 = some (.andZpx 0x37#8) ∧
    decodeTableWord 24 0x123439 = some (.andAby 0x1234#16) ∧
    decodeTableWord 24 0x12343D = some (.andAbx 0x1234#16) ∧
    decodeTableWord 16 0x3701 = some (.oraIzx 0x37#8) ∧
    decodeTableWord 16 0x3705 = some (.oraZp 0x37#8) ∧
    decodeTableWord 16 0x3709 = some (.oraImm 0x37#8) ∧
    decodeTableWord 24 0x12340D = some (.oraAbs 0x1234#16) ∧
    decodeTableWord 16 0x3711 = some (.oraIzy 0x37#8) ∧
    decodeTableWord 16 0x3715 = some (.oraZpx 0x37#8) ∧
    decodeTableWord 24 0x123419 = some (.oraAby 0x1234#16) ∧
    decodeTableWord 24 0x12341D = some (.oraAbx 0x1234#16) ∧
    decodeTableWord 16 0x3741 = some (.eorIzx 0x37#8) ∧
    decodeTableWord 16 0x3745 = some (.eorZp 0x37#8) ∧
    decodeTableWord 16 0x3749 = some (.eorImm 0x37#8) ∧
    decodeTableWord 24 0x12344D = some (.eorAbs 0x1234#16) ∧
    decodeTableWord 16 0x3751 = some (.eorIzy 0x37#8) ∧
    decodeTableWord 16 0x3755 = some (.eorZpx 0x37#8) ∧
    decodeTableWord 24 0x123459 = some (.eorAby 0x1234#16) ∧
    decodeTableWord 24 0x12345D = some (.eorAbx 0x1234#16) := by decide

theorem test_decode_compares_bit :
    decodeTableWord 16 0x37C1 = some (.cmpIzx 0x37#8) ∧
    decodeTableWord 16 0x37C5 = some (.cmpZp 0x37#8) ∧
    decodeTableWord 16 0x37C9 = some (.cmpImm 0x37#8) ∧
    decodeTableWord 24 0x1234CD = some (.cmpAbs 0x1234#16) ∧
    decodeTableWord 16 0x37D1 = some (.cmpIzy 0x37#8) ∧
    decodeTableWord 16 0x37D5 = some (.cmpZpx 0x37#8) ∧
    decodeTableWord 24 0x1234D9 = some (.cmpAby 0x1234#16) ∧
    decodeTableWord 24 0x1234DD = some (.cmpAbx 0x1234#16) ∧
    decodeTableWord 16 0x37E0 = some (.cpxImm 0x37#8) ∧
    decodeTableWord 16 0x37E4 = some (.cpxZp 0x37#8) ∧
    decodeTableWord 24 0x1234EC = some (.cpxAbs 0x1234#16) ∧
    decodeTableWord 16 0x37C0 = some (.cpyImm 0x37#8) ∧
    decodeTableWord 16 0x37C4 = some (.cpyZp 0x37#8) ∧
    decodeTableWord 24 0x1234CC = some (.cpyAbs 0x1234#16) ∧
    decodeTableWord 16 0x3724 = some (.bitZp 0x37#8) ∧
    decodeTableWord 24 0x12342C = some (.bitAbs 0x1234#16) := by decide

theorem test_decode_shifts :
    decodeTableWord 16 0x3706 = some (.aslZp 0x37#8) ∧
    decodeTableWord 8 0x0A = some .aslAcc ∧
    decodeTableWord 24 0x12340E = some (.aslAbs 0x1234#16) ∧
    decodeTableWord 16 0x3716 = some (.aslZpx 0x37#8) ∧
    decodeTableWord 24 0x12341E = some (.aslAbx 0x1234#16) ∧
    decodeTableWord 16 0x3746 = some (.lsrZp 0x37#8) ∧
    decodeTableWord 8 0x4A = some .lsrAcc ∧
    decodeTableWord 24 0x12344E = some (.lsrAbs 0x1234#16) ∧
    decodeTableWord 16 0x3756 = some (.lsrZpx 0x37#8) ∧
    decodeTableWord 24 0x12345E = some (.lsrAbx 0x1234#16) := by decide

theorem test_decode_rotates :
    decodeTableWord 16 0x3726 = some (.rolZp 0x37#8) ∧
    decodeTableWord 8 0x2A = some .rolAcc ∧
    decodeTableWord 24 0x12342E = some (.rolAbs 0x1234#16) ∧
    decodeTableWord 16 0x3736 = some (.rolZpx 0x37#8) ∧
    decodeTableWord 24 0x12343E = some (.rolAbx 0x1234#16) ∧
    decodeTableWord 16 0x3766 = some (.rorZp 0x37#8) ∧
    decodeTableWord 8 0x6A = some .rorAcc ∧
    decodeTableWord 24 0x12346E = some (.rorAbs 0x1234#16) ∧
    decodeTableWord 16 0x3776 = some (.rorZpx 0x37#8) ∧
    decodeTableWord 24 0x12347E = some (.rorAbx 0x1234#16) := by decide

theorem test_decode_increments :
    decodeTableWord 16 0x37E6 = some (.incZp 0x37#8) ∧
    decodeTableWord 24 0x1234EE = some (.incAbs 0x1234#16) ∧
    decodeTableWord 16 0x37F6 = some (.incZpx 0x37#8) ∧
    decodeTableWord 24 0x1234FE = some (.incAbx 0x1234#16) ∧
    decodeTableWord 16 0x37C6 = some (.decZp 0x37#8) ∧
    decodeTableWord 24 0x1234CE = some (.decAbs 0x1234#16) ∧
    decodeTableWord 16 0x37D6 = some (.decZpx 0x37#8) ∧
    decodeTableWord 24 0x1234DE = some (.decAbx 0x1234#16) ∧
    decodeTableWord 8 0xE8 = some .inx ∧
    decodeTableWord 8 0xC8 = some .iny ∧
    decodeTableWord 8 0xCA = some .dex ∧
    decodeTableWord 8 0x88 = some .dey := by decide

theorem test_decode_control :
    decodeTableWord 24 0x12344C = some (.jmpAbs 0x1234#16) ∧
    decodeTableWord 24 0x12346C = some (.jmpInd 0x1234#16) ∧
    decodeTableWord 24 0x123420 = some (.jsr 0x1234#16) ∧
    decodeTableWord 8 0x60 = some .rts ∧
    decodeTableWord 8 0x40 = some .rti ∧
    decodeTableWord 8 0x00 = some .brk := by decide

theorem test_decode_branches :
    decodeTableWord 16 0x3710 = some (.bpl 0x37#8) ∧
    decodeTableWord 16 0x3730 = some (.bmi 0x37#8) ∧
    decodeTableWord 16 0x3750 = some (.bvc 0x37#8) ∧
    decodeTableWord 16 0x3770 = some (.bvs 0x37#8) ∧
    decodeTableWord 16 0x3790 = some (.bcc 0x37#8) ∧
    decodeTableWord 16 0x37B0 = some (.bcs 0x37#8) ∧
    decodeTableWord 16 0x37D0 = some (.bne 0x37#8) ∧
    decodeTableWord 16 0x37F0 = some (.beq 0x37#8) := by decide

theorem test_decode_stack_flags_nop :
    decodeTableWord 8 0x48 = some .pha ∧
    decodeTableWord 8 0x08 = some .php ∧
    decodeTableWord 8 0x68 = some .pla ∧
    decodeTableWord 8 0x28 = some .plp ∧
    decodeTableWord 8 0x18 = some .clc ∧
    decodeTableWord 8 0x38 = some .sec ∧
    decodeTableWord 8 0x58 = some .cli ∧
    decodeTableWord 8 0x78 = some .sei ∧
    decodeTableWord 8 0xD8 = some .cld ∧
    decodeTableWord 8 0xF8 = some .sed ∧
    decodeTableWord 8 0xB8 = some .clv ∧
    decodeTableWord 8 0xEA = some .nop := by decide

theorem test_decode_refuses :
    decode [] = .error .noBytes ∧ decode [0x02#8] = .error (.unassigned 0x02#8) ∧
    decode [0xA9#8] = .error (.truncated 0xA9#8) ∧ decode [0x4C#8, 0x00#8] = .error (.truncated 0x4C#8) ∧
    decode [0xEA#8, 0x02#8] = .ok (.nop, [0x02#8]) := by decide

/-! ## Steps -/

/-- A machine on `FlatBus` with the given registers and bytes. -/
def boot (a x y sp p : Byte) (pc : Word) (cells : List (Word × List Byte)) : State :=
  cells.foldl (fun s c => pokeBytes c.1 c.2 s)
    { freshState { Session.empty with bus := .flat } [] with
      cpu := { a := a, x := x, y := y, sp := sp, pc := pc, p := p, nmiPending := false } }

/-- A, X, Y, SP, P, PC of a next state. -/
def regs (o : Host.Outcome State Fault Refusal) : Option (Byte × Byte × Byte × Byte × Byte × Word) :=
  match o with
  | .next t => some (t.cpu.a, t.cpu.x, t.cpu.y, t.cpu.sp, t.cpu.p, t.cpu.pc)
  | .fault _ => none
  | .refused _ => none

/-- What `Peek` shows in a next state. -/
def byteAt (a : Word) (o : Host.Outcome State Fault Refusal) : Option Byte :=
  match o with
  | .next t => some (peek t a)
  | .fault _ => none
  | .refused _ => none

/-- The fault of an outcome. -/
def faultOf (o : Host.Outcome State Fault Refusal) : Option Fault :=
  match o with
  | .next _ => none
  | .fault f => some f
  | .refused _ => none

/-- The refusal of an outcome. -/
def refusalOf (o : Host.Outcome State Fault Refusal) : Option Refusal :=
  match o with
  | .next _ => none
  | .fault _ => none
  | .refused r => some r

/-- The PPU block of a next state: latch, toggle, control, buffer. -/
def ports (o : Host.Outcome State Fault Refusal) : Option (Word × Bool × Byte × Byte) :=
  match o with
  | .next t => some (t.ppu.addr, t.ppu.hiNext, t.ppu.ctrl, t.ppu.buf)
  | .fault _ => none
  | .refused _ => none

/-- AM4 -/
theorem test_lda_zpx_wraps :
    regs (step (boot 0x00#8 0x20#8 0x00#8 0xFD#8 0x24#8 0x8000#16 [(0x8000#16, [0xB5#8, 0xF0#8]), (0x0010#16, [0x22#8]), (0x0110#16, [0x99#8])])) =
      some (0x22#8, 0x20#8, 0x00#8, 0xFD#8, 0x24#8, 0x8002#16) := by decide

/-- AM5 -/
theorem test_ldx_zpy_wraps :
    regs (step (boot 0x00#8 0x00#8 0x01#8 0xFD#8 0x24#8 0x8000#16 [(0x8000#16, [0xB6#8, 0xFF#8]), (0x0000#16, [0x44#8]), (0x0100#16, [0x99#8])])) =
      some (0x00#8, 0x44#8, 0x01#8, 0xFD#8, 0x24#8, 0x8002#16) := by decide

/-- AM8 -/
theorem test_lda_abx_wraps_at_top :
    regs (step (boot 0x00#8 0x02#8 0x00#8 0xFD#8 0x24#8 0x8000#16 [(0x8000#16, [0xBD#8, 0xFF#8, 0xFF#8]), (0x0001#16, [0x55#8])])) =
      some (0x55#8, 0x02#8, 0x00#8, 0xFD#8, 0x24#8, 0x8003#16) := by decide

/-- AM12 -/
theorem test_lda_izx_pointer_wraps :
    regs (step (boot 0x00#8 0x00#8 0x00#8 0xFD#8 0x24#8 0x8000#16 [(0x8000#16, [0xA1#8, 0xFF#8]), (0x00FF#16, [0x34#8]), (0x0000#16, [0x12#8]), (0x0100#16, [0x99#8]), (0x1234#16, [0x88#8])])) =
      some (0x88#8, 0x00#8, 0x00#8, 0xFD#8, 0xA4#8, 0x8002#16) := by decide

/-- AM14 -/
theorem test_lda_izy_pointer_wraps :
    regs (step (boot 0x00#8 0x00#8 0x01#8 0xFD#8 0x24#8 0x8000#16 [(0x8000#16, [0xB1#8, 0xFF#8]), (0x00FF#16, [0xFF#8]), (0x0000#16, [0x02#8]), (0x0100#16, [0x99#8]), (0x0300#16, [0x31#8])])) =
      some (0x31#8, 0x00#8, 0x01#8, 0xFD#8, 0x24#8, 0x8002#16) := by decide

/-- AM16 -/
theorem test_lda_imm_operand_wraps :
    regs (step (boot 0x00#8 0x00#8 0x00#8 0xFD#8 0x24#8 0xFFFF#16 [(0xFFFF#16, [0xA9#8]), (0x0000#16, [0x3C#8])])) =
      some (0x3C#8, 0x00#8, 0x00#8, 0xFD#8, 0x24#8, 0x0001#16) := by decide

/-- LS4 -/
theorem test_ldx_aby :
    regs (step (boot 0x00#8 0x09#8 0x03#8 0xFD#8 0x24#8 0x8000#16 [(0x8000#16, [0xBE#8, 0x00#8, 0x02#8]), (0x0203#16, [0xFE#8])])) =
      some (0x00#8, 0xFE#8, 0x03#8, 0xFD#8, 0xA4#8, 0x8003#16) := by decide

/-- LS5 -/
theorem test_ldy_imm :
    regs (step (boot 0x00#8 0x00#8 0x00#8 0xFD#8 0x24#8 0x8000#16 [(0x8000#16, [0xA0#8, 0xFF#8])])) =
      some (0x00#8, 0x00#8, 0xFF#8, 0xFD#8, 0xA4#8, 0x8002#16) := by decide

/-- LS6 -/
theorem test_ldy_zpx :
    regs (step (boot 0x00#8 0x02#8 0x00#8 0xFD#8 0x24#8 0x8000#16 [(0x8000#16, [0xB4#8, 0x10#8]), (0x0012#16, [0x00#8])])) =
      some (0x00#8, 0x02#8, 0x00#8, 0xFD#8, 0x26#8, 0x8002#16) := by decide

/-- LS7 -/
theorem test_sta_abs :
    let o := step (boot 0x5A#8 0x00#8 0x00#8 0xFD#8 0x24#8 0x8000#16 [(0x8000#16, [0x8D#8, 0x00#8, 0x02#8]), (0x0200#16, [0x11#8])])
    regs o = some (0x5A#8, 0x00#8, 0x00#8, 0xFD#8, 0x24#8, 0x8003#16) ∧
    byteAt 0x0200#16 o = some 0x5A#8 := by decide

/-- LS8 -/
theorem test_sta_izy :
    let o := step (boot 0x77#8 0x00#8 0x02#8 0xFD#8 0x24#8 0x8000#16 [(0x8000#16, [0x91#8, 0x40#8]), (0x0040#16, [0x00#8, 0x03#8])])
    regs o = some (0x77#8, 0x00#8, 0x02#8, 0xFD#8, 0x24#8, 0x8002#16) ∧
    byteAt 0x0302#16 o = some 0x77#8 := by decide

/-- LS9 -/
theorem test_stx_zpy :
    let o := step (boot 0x00#8 0x07#8 0x02#8 0xFD#8 0x24#8 0x8000#16 [(0x8000#16, [0x96#8, 0xFF#8])])
    regs o = some (0x00#8, 0x07#8, 0x02#8, 0xFD#8, 0x24#8, 0x8002#16) ∧
    byteAt 0x0001#16 o = some 0x07#8 := by decide

/-- LS10 -/
theorem test_sty_zpx :
    let o := step (boot 0x00#8 0x02#8 0x09#8 0xFD#8 0x24#8 0x8000#16 [(0x8000#16, [0x94#8, 0x10#8])])
    regs o = some (0x00#8, 0x02#8, 0x09#8, 0xFD#8, 0x24#8, 0x8002#16) ∧
    byteAt 0x0012#16 o = some 0x09#8 := by decide

/-- LS11 -/
theorem test_tax :
    regs (step (boot 0x00#8 0x05#8 0x00#8 0xFD#8 0x24#8 0x8000#16 [(0x8000#16, [0xAA#8])])) =
      some (0x00#8, 0x00#8, 0x00#8, 0xFD#8, 0x26#8, 0x8001#16) := by decide

/-- LS12 -/
theorem test_tay :
    regs (step (boot 0x90#8 0x00#8 0x00#8 0xFD#8 0x24#8 0x8000#16 [(0x8000#16, [0xA8#8])])) =
      some (0x90#8, 0x00#8, 0x90#8, 0xFD#8, 0xA4#8, 0x8001#16) := by decide

/-- LS13 -/
theorem test_txa :
    regs (step (boot 0x00#8 0x7F#8 0x00#8 0xFD#8 0xA6#8 0x8000#16 [(0x8000#16, [0x8A#8])])) =
      some (0x7F#8, 0x7F#8, 0x00#8, 0xFD#8, 0x24#8, 0x8001#16) := by decide

/-- LS14 -/
theorem test_tya :
    regs (step (boot 0x03#8 0x00#8 0x00#8 0xFD#8 0x24#8 0x8000#16 [(0x8000#16, [0x98#8])])) =
      some (0x00#8, 0x00#8, 0x00#8, 0xFD#8, 0x26#8, 0x8001#16) := by decide

/-- LS15 -/
theorem test_tsx :
    regs (step (boot 0x00#8 0x00#8 0x00#8 0xFD#8 0x24#8 0x8000#16 [(0x8000#16, [0xBA#8])])) =
      some (0x00#8, 0xFD#8, 0x00#8, 0xFD#8, 0xA4#8, 0x8001#16) := by decide

/-- LS16 -/
theorem test_txs :
    regs (step (boot 0x00#8 0x00#8 0x00#8 0xFD#8 0x24#8 0x8000#16 [(0x8000#16, [0x9A#8])])) =
      some (0x00#8, 0x00#8, 0x00#8, 0x00#8, 0x24#8, 0x8001#16) := by decide

/-- AL4 -/
theorem test_adc_imm_carry_overflow :
    regs (step (boot 0x80#8 0x00#8 0x00#8 0xFD#8 0x24#8 0x8000#16 [(0x8000#16, [0x69#8, 0x80#8])])) =
      some (0x00#8, 0x00#8, 0x00#8, 0xFD#8, 0x67#8, 0x8002#16) := by decide

/-- AL6 -/
theorem test_adc_ignores_decimal :
    regs (step (boot 0x09#8 0x00#8 0x00#8 0xFD#8 0x2C#8 0x8000#16 [(0x8000#16, [0x69#8, 0x01#8])])) =
      some (0x0A#8, 0x00#8, 0x00#8, 0xFD#8, 0x2C#8, 0x8002#16) := by decide

/-- AL10 -/
theorem test_sbc_imm_overflow :
    regs (step (boot 0x50#8 0x00#8 0x00#8 0xFD#8 0x25#8 0x8000#16 [(0x8000#16, [0xE9#8, 0xB0#8])])) =
      some (0xA0#8, 0x00#8, 0x00#8, 0xFD#8, 0xE4#8, 0x8002#16) := by decide

/-- AL13 -/
theorem test_sbc_imm_borrow_in :
    regs (step (boot 0x05#8 0x00#8 0x00#8 0xFD#8 0x24#8 0x8000#16 [(0x8000#16, [0xE9#8, 0x05#8])])) =
      some (0xFF#8, 0x00#8, 0x00#8, 0xFD#8, 0xA4#8, 0x8002#16) := by decide

/-- AL16 -/
theorem test_and_imm :
    regs (step (boot 0xF0#8 0x00#8 0x00#8 0xFD#8 0x24#8 0x8000#16 [(0x8000#16, [0x29#8, 0x0F#8])])) =
      some (0x00#8, 0x00#8, 0x00#8, 0xFD#8, 0x26#8, 0x8002#16) := by decide

/-- AL17 -/
theorem test_ora_imm :
    regs (step (boot 0x01#8 0x00#8 0x00#8 0xFD#8 0x65#8 0x8000#16 [(0x8000#16, [0x09#8, 0x80#8])])) =
      some (0x81#8, 0x00#8, 0x00#8, 0xFD#8, 0xE5#8, 0x8002#16) := by decide

/-- AL18 -/
theorem test_eor_imm :
    regs (step (boot 0x55#8 0x00#8 0x00#8 0xFD#8 0x24#8 0x8000#16 [(0x8000#16, [0x49#8, 0xFF#8])])) =
      some (0xAA#8, 0x00#8, 0x00#8, 0xFD#8, 0xA4#8, 0x8002#16) := by decide

/-- AL21 -/
theorem test_cmp_imm_less :
    regs (step (boot 0x00#8 0x00#8 0x00#8 0xFD#8 0x25#8 0x8000#16 [(0x8000#16, [0xC9#8, 0x01#8])])) =
      some (0x00#8, 0x00#8, 0x00#8, 0xFD#8, 0xA4#8, 0x8002#16) := by decide

/-- AL22 -/
theorem test_cmp_imm_greater :
    regs (step (boot 0x80#8 0x00#8 0x00#8 0xFD#8 0x24#8 0x8000#16 [(0x8000#16, [0xC9#8, 0x00#8])])) =
      some (0x80#8, 0x00#8, 0x00#8, 0xFD#8, 0xA5#8, 0x8002#16) := by decide

/-- AL24 -/
theorem test_cpx_imm :
    regs (step (boot 0x00#8 0x03#8 0x00#8 0xFD#8 0x24#8 0x8000#16 [(0x8000#16, [0xE0#8, 0x05#8])])) =
      some (0x00#8, 0x03#8, 0x00#8, 0xFD#8, 0xA4#8, 0x8002#16) := by decide

/-- AL25 -/
theorem test_cpy_abs :
    regs (step (boot 0x00#8 0x00#8 0x10#8 0xFD#8 0x24#8 0x8000#16 [(0x8000#16, [0xCC#8, 0x00#8, 0x03#8]), (0x0300#16, [0x08#8])])) =
      some (0x00#8, 0x00#8, 0x10#8, 0xFD#8, 0x25#8, 0x8003#16) := by decide

/-- AL26 -/
theorem test_bit_zp :
    regs (step (boot 0x01#8 0x00#8 0x00#8 0xFD#8 0x24#8 0x8000#16 [(0x8000#16, [0x24#8, 0x10#8]), (0x0010#16, [0x41#8])])) =
      some (0x01#8, 0x00#8, 0x00#8, 0xFD#8, 0x64#8, 0x8002#16) := by decide

/-- AL27 -/
theorem test_bit_abs :
    regs (step (boot 0x00#8 0x00#8 0x00#8 0xFD#8 0x24#8 0x8000#16 [(0x8000#16, [0x2C#8, 0x00#8, 0x02#8]), (0x0200#16, [0xC0#8])])) =
      some (0x00#8, 0x00#8, 0x00#8, 0xFD#8, 0xE6#8, 0x8003#16) := by decide

/-- SH1 -/
theorem test_asl_acc :
    regs (step (boot 0x81#8 0x00#8 0x00#8 0xFD#8 0x24#8 0x8000#16 [(0x8000#16, [0x0A#8])])) =
      some (0x02#8, 0x00#8, 0x00#8, 0xFD#8, 0x25#8, 0x8001#16) := by decide

/-- SH3 -/
theorem test_asl_zp :
    let o := step (boot 0x00#8 0x00#8 0x00#8 0xFD#8 0x24#8 0x8000#16 [(0x8000#16, [0x06#8, 0x10#8]), (0x0010#16, [0x40#8])])
    regs o = some (0x00#8, 0x00#8, 0x00#8, 0xFD#8, 0xA4#8, 0x8002#16) ∧
    byteAt 0x0010#16 o = some 0x80#8 := by decide

/-- SH4 -/
theorem test_lsr_acc :
    regs (step (boot 0x03#8 0x00#8 0x00#8 0xFD#8 0x24#8 0x8000#16 [(0x8000#16, [0x4A#8])])) =
      some (0x01#8, 0x00#8, 0x00#8, 0xFD#8, 0x25#8, 0x8001#16) := by decide

/-- SH5 -/
theorem test_lsr_abs :
    let o := step (boot 0x00#8 0x00#8 0x00#8 0xFD#8 0xA4#8 0x8000#16 [(0x8000#16, [0x4E#8, 0x00#8, 0x02#8]), (0x0200#16, [0x01#8])])
    regs o = some (0x00#8, 0x00#8, 0x00#8, 0xFD#8, 0x27#8, 0x8003#16) ∧
    byteAt 0x0200#16 o = some 0x00#8 := by decide

/-- SH6 -/
theorem test_rol_acc :
    regs (step (boot 0x40#8 0x00#8 0x00#8 0xFD#8 0x25#8 0x8000#16 [(0x8000#16, [0x2A#8])])) =
      some (0x81#8, 0x00#8, 0x00#8, 0xFD#8, 0xA4#8, 0x8001#16) := by decide

/-- SH8 -/
theorem test_rol_zpx :
    let o := step (boot 0x00#8 0x01#8 0x00#8 0xFD#8 0x25#8 0x8000#16 [(0x8000#16, [0x36#8, 0x10#8]), (0x0011#16, [0x00#8])])
    regs o = some (0x00#8, 0x01#8, 0x00#8, 0xFD#8, 0x24#8, 0x8002#16) ∧
    byteAt 0x0011#16 o = some 0x01#8 := by decide

/-- SH9 -/
theorem test_ror_acc :
    regs (step (boot 0x02#8 0x00#8 0x00#8 0xFD#8 0x25#8 0x8000#16 [(0x8000#16, [0x6A#8])])) =
      some (0x81#8, 0x00#8, 0x00#8, 0xFD#8, 0xA4#8, 0x8001#16) := by decide

/-- SH11 -/
theorem test_ror_abx :
    let o := step (boot 0x00#8 0x01#8 0x00#8 0xFD#8 0x25#8 0x8000#16 [(0x8000#16, [0x7E#8, 0xFF#8, 0x02#8]), (0x0300#16, [0x00#8])])
    regs o = some (0x00#8, 0x01#8, 0x00#8, 0xFD#8, 0xA4#8, 0x8003#16) ∧
    byteAt 0x0300#16 o = some 0x80#8 := by decide

/-- SH12 -/
theorem test_inc_zp :
    let o := step (boot 0x00#8 0x00#8 0x00#8 0xFD#8 0x25#8 0x8000#16 [(0x8000#16, [0xE6#8, 0x10#8]), (0x0010#16, [0xFF#8])])
    regs o = some (0x00#8, 0x00#8, 0x00#8, 0xFD#8, 0x27#8, 0x8002#16) ∧
    byteAt 0x0010#16 o = some 0x00#8 := by decide

/-- SH13 -/
theorem test_inc_abs :
    let o := step (boot 0x00#8 0x00#8 0x00#8 0xFD#8 0x24#8 0x8000#16 [(0x8000#16, [0xEE#8, 0x00#8, 0x02#8]), (0x0200#16, [0x7F#8])])
    regs o = some (0x00#8, 0x00#8, 0x00#8, 0xFD#8, 0xA4#8, 0x8003#16) ∧
    byteAt 0x0200#16 o = some 0x80#8 := by decide

/-- SH14 -/
theorem test_dec_zp :
    let o := step (boot 0x00#8 0x00#8 0x00#8 0xFD#8 0x24#8 0x8000#16 [(0x8000#16, [0xC6#8, 0x10#8]), (0x0010#16, [0x00#8])])
    regs o = some (0x00#8, 0x00#8, 0x00#8, 0xFD#8, 0xA4#8, 0x8002#16) ∧
    byteAt 0x0010#16 o = some 0xFF#8 := by decide

/-- SH15 -/
theorem test_dec_abs :
    let o := step (boot 0x00#8 0x00#8 0x00#8 0xFD#8 0x24#8 0x8000#16 [(0x8000#16, [0xCE#8, 0x00#8, 0x02#8]), (0x0200#16, [0x01#8])])
    regs o = some (0x00#8, 0x00#8, 0x00#8, 0xFD#8, 0x26#8, 0x8003#16) ∧
    byteAt 0x0200#16 o = some 0x00#8 := by decide

/-- SH16 -/
theorem test_inx :
    regs (step (boot 0x00#8 0xFF#8 0x00#8 0xFD#8 0x24#8 0x8000#16 [(0x8000#16, [0xE8#8])])) =
      some (0x00#8, 0x00#8, 0x00#8, 0xFD#8, 0x26#8, 0x8001#16) := by decide

/-- SH17 -/
theorem test_iny :
    regs (step (boot 0x00#8 0x00#8 0x7F#8 0xFD#8 0x24#8 0x8000#16 [(0x8000#16, [0xC8#8])])) =
      some (0x00#8, 0x00#8, 0x80#8, 0xFD#8, 0xA4#8, 0x8001#16) := by decide

/-- SH18 -/
theorem test_dex :
    regs (step (boot 0x00#8 0x00#8 0x00#8 0xFD#8 0x24#8 0x8000#16 [(0x8000#16, [0xCA#8])])) =
      some (0x00#8, 0xFF#8, 0x00#8, 0xFD#8, 0xA4#8, 0x8001#16) := by decide

/-- SH20 -/
theorem test_dey :
    regs (step (boot 0x01#8 0x00#8 0x03#8 0xFD#8 0x26#8 0x0067#16 [(0x0067#16, [0x88#8])])) =
      some (0x01#8, 0x00#8, 0x02#8, 0xFD#8, 0x24#8, 0x0068#16) := by decide

/-- CF1 -/
theorem test_jmp_abs :
    regs (step (boot 0x00#8 0x00#8 0x00#8 0xFD#8 0x24#8 0x8000#16 [(0x8000#16, [0x4C#8, 0x34#8, 0x12#8])])) =
      some (0x00#8, 0x00#8, 0x00#8, 0xFD#8, 0x24#8, 0x1234#16) := by decide

/-- CF3 -/
theorem test_jmp_ind :
    regs (step (boot 0x00#8 0x00#8 0x00#8 0xFD#8 0x24#8 0x8000#16 [(0x8000#16, [0x6C#8, 0x20#8, 0x01#8]), (0x0120#16, [0xFC#8, 0xBA#8])])) =
      some (0x00#8, 0x00#8, 0x00#8, 0xFD#8, 0x24#8, 0xBAFC#16) := by decide

/-- CF4 -/
theorem test_jmp_ind_same_page :
    regs (step (boot 0x00#8 0x00#8 0x00#8 0xFD#8 0x24#8 0x8000#16 [(0x8000#16, [0x6C#8, 0xFF#8, 0x02#8]), (0x02FF#16, [0x34#8]), (0x0200#16, [0x12#8]), (0x0300#16, [0x56#8])])) =
      some (0x00#8, 0x00#8, 0x00#8, 0xFD#8, 0x24#8, 0x1234#16) := by decide

/-- CF5 -/
theorem test_jsr :
    let o := step (boot 0x00#8 0x00#8 0x00#8 0xFD#8 0x24#8 0x8000#16 [(0x8000#16, [0x20#8, 0x10#8, 0x80#8])])
    regs o = some (0x00#8, 0x00#8, 0x00#8, 0xFB#8, 0x24#8, 0x8010#16) ∧
    byteAt 0x01FD#16 o = some 0x80#8 ∧
    byteAt 0x01FC#16 o = some 0x02#8 := by decide

/-- CF8 -/
theorem test_jsr_at_top :
    let o := step (boot 0x00#8 0x00#8 0x00#8 0xFD#8 0x24#8 0xFFFD#16 [(0xFFFD#16, [0x20#8, 0x00#8, 0x90#8])])
    regs o = some (0x00#8, 0x00#8, 0x00#8, 0xFB#8, 0x24#8, 0x9000#16) ∧
    byteAt 0x01FD#16 o = some 0xFF#8 ∧
    byteAt 0x01FC#16 o = some 0xFF#8 := by decide

/-- CF6 -/
theorem test_rts :
    regs (step (boot 0x00#8 0x00#8 0x00#8 0xFB#8 0x24#8 0x8010#16 [(0x8010#16, [0x60#8]), (0x01FC#16, [0x02#8, 0x80#8])])) =
      some (0x00#8, 0x00#8, 0x00#8, 0xFD#8, 0x24#8, 0x8003#16) := by decide

/-- CF7 -/
theorem test_rts_wraps :
    regs (step (boot 0x00#8 0x00#8 0x00#8 0xFB#8 0x24#8 0x8000#16 [(0x8000#16, [0x60#8]), (0x01FC#16, [0xFF#8, 0xFF#8])])) =
      some (0x00#8, 0x00#8, 0x00#8, 0xFD#8, 0x24#8, 0x0000#16) := by decide

/-- CF9 -/
theorem test_rti :
    regs (step (boot 0x00#8 0x00#8 0x00#8 0xFA#8 0x24#8 0x8000#16 [(0x8000#16, [0x40#8]), (0x01FB#16, [0xB5#8, 0x03#8, 0x80#8])])) =
      some (0x00#8, 0x00#8, 0x00#8, 0xFD#8, 0xA5#8, 0x8003#16) := by decide

/-- CF10 -/
theorem test_brk :
    let o := step (boot 0x00#8 0x00#8 0x00#8 0xFD#8 0x24#8 0x8000#16 [(0x8000#16, [0x00#8]), (0xFFFE#16, [0x00#8, 0x90#8])])
    regs o = some (0x00#8, 0x00#8, 0x00#8, 0xFA#8, 0x24#8, 0x9000#16) ∧
    byteAt 0x01FD#16 o = some 0x80#8 ∧
    byteAt 0x01FC#16 o = some 0x02#8 ∧
    byteAt 0x01FB#16 o = some 0x34#8 := by decide

/-- CF11 -/
theorem test_brk_sets_i :
    let o := step (boot 0x00#8 0x00#8 0x00#8 0xFD#8 0xE3#8 0x8000#16 [(0x8000#16, [0x00#8]), (0xFFFE#16, [0x00#8, 0x90#8])])
    regs o = some (0x00#8, 0x00#8, 0x00#8, 0xFA#8, 0xE7#8, 0x9000#16) ∧
    byteAt 0x01FD#16 o = some 0x80#8 ∧
    byteAt 0x01FC#16 o = some 0x02#8 ∧
    byteAt 0x01FB#16 o = some 0xF3#8 := by decide

/-- CF16 -/
theorem test_bpl_taken :
    regs (step (boot 0x00#8 0x00#8 0x00#8 0xFD#8 0x24#8 0x0010#16 [(0x0010#16, [0x10#8, 0x04#8])])) =
      some (0x00#8, 0x00#8, 0x00#8, 0xFD#8, 0x24#8, 0x0016#16) := by decide

/-- CF17 -/
theorem test_bpl_not_taken :
    regs (step (boot 0x00#8 0x00#8 0x00#8 0xFD#8 0xA4#8 0x0010#16 [(0x0010#16, [0x10#8, 0x04#8])])) =
      some (0x00#8, 0x00#8, 0x00#8, 0xFD#8, 0xA4#8, 0x0012#16) := by decide

/-- CF18 -/
theorem test_bmi_taken :
    regs (step (boot 0x00#8 0x00#8 0x00#8 0xFD#8 0xA4#8 0x0010#16 [(0x0010#16, [0x30#8, 0x04#8])])) =
      some (0x00#8, 0x00#8, 0x00#8, 0xFD#8, 0xA4#8, 0x0016#16) := by decide

/-- CF19 -/
theorem test_bmi_not_taken :
    regs (step (boot 0x00#8 0x00#8 0x00#8 0xFD#8 0x24#8 0x0010#16 [(0x0010#16, [0x30#8, 0x04#8])])) =
      some (0x00#8, 0x00#8, 0x00#8, 0xFD#8, 0x24#8, 0x0012#16) := by decide

/-- CF20 -/
theorem test_bvc_taken_backward :
    regs (step (boot 0x00#8 0x00#8 0x00#8 0xFD#8 0x24#8 0x0010#16 [(0x0010#16, [0x50#8, 0x80#8])])) =
      some (0x00#8, 0x00#8, 0x00#8, 0xFD#8, 0x24#8, 0xFF92#16) := by decide

/-- CF21 -/
theorem test_bvc_not_taken :
    regs (step (boot 0x00#8 0x00#8 0x00#8 0xFD#8 0x64#8 0x0010#16 [(0x0010#16, [0x50#8, 0x80#8])])) =
      some (0x00#8, 0x00#8, 0x00#8, 0xFD#8, 0x64#8, 0x0012#16) := by decide

/-- CF22 -/
theorem test_bvs_taken :
    regs (step (boot 0x00#8 0x00#8 0x00#8 0xFD#8 0x64#8 0x0010#16 [(0x0010#16, [0x70#8, 0x04#8])])) =
      some (0x00#8, 0x00#8, 0x00#8, 0xFD#8, 0x64#8, 0x0016#16) := by decide

/-- CF23 -/
theorem test_bvs_not_taken :
    regs (step (boot 0x00#8 0x00#8 0x00#8 0xFD#8 0x24#8 0x0010#16 [(0x0010#16, [0x70#8, 0x04#8])])) =
      some (0x00#8, 0x00#8, 0x00#8, 0xFD#8, 0x24#8, 0x0012#16) := by decide

/-- CF24 -/
theorem test_bcc_taken :
    regs (step (boot 0x00#8 0x00#8 0x00#8 0xFD#8 0x24#8 0x0200#16 [(0x0200#16, [0x90#8, 0x7F#8])])) =
      some (0x00#8, 0x00#8, 0x00#8, 0xFD#8, 0x24#8, 0x0281#16) := by decide

/-- CF25 -/
theorem test_bcc_not_taken :
    regs (step (boot 0x00#8 0x00#8 0x00#8 0xFD#8 0x25#8 0x0200#16 [(0x0200#16, [0x90#8, 0x7F#8])])) =
      some (0x00#8, 0x00#8, 0x00#8, 0xFD#8, 0x25#8, 0x0202#16) := by decide

/-- CF26 -/
theorem test_bcs_taken :
    regs (step (boot 0x00#8 0x00#8 0x00#8 0xFD#8 0x25#8 0x0200#16 [(0x0200#16, [0xB0#8, 0x02#8])])) =
      some (0x00#8, 0x00#8, 0x00#8, 0xFD#8, 0x25#8, 0x0204#16) := by decide

/-- CF27 -/
theorem test_bcs_not_taken :
    regs (step (boot 0x00#8 0x00#8 0x00#8 0xFD#8 0x24#8 0x0200#16 [(0x0200#16, [0xB0#8, 0x02#8])])) =
      some (0x00#8, 0x00#8, 0x00#8, 0xFD#8, 0x24#8, 0x0202#16) := by decide

/-- CF12 -/
theorem test_bne_taken :
    regs (step (boot 0x00#8 0x00#8 0x00#8 0xFD#8 0x24#8 0x8005#16 [(0x8005#16, [0xD0#8, 0xFB#8])])) =
      some (0x00#8, 0x00#8, 0x00#8, 0xFD#8, 0x24#8, 0x8002#16) := by decide

/-- CF13 -/
theorem test_bne_not_taken :
    regs (step (boot 0x00#8 0x00#8 0x00#8 0xFD#8 0x26#8 0x8005#16 [(0x8005#16, [0xD0#8, 0xFB#8])])) =
      some (0x00#8, 0x00#8, 0x00#8, 0xFD#8, 0x26#8, 0x8007#16) := by decide

/-- CF14 -/
theorem test_beq_taken :
    regs (step (boot 0x00#8 0x00#8 0x00#8 0xFD#8 0x26#8 0x0000#16 [(0x0000#16, [0xF0#8, 0xFE#8])])) =
      some (0x00#8, 0x00#8, 0x00#8, 0xFD#8, 0x26#8, 0x0000#16) := by decide

/-- CF15 -/
theorem test_beq_not_taken :
    regs (step (boot 0x00#8 0x00#8 0x00#8 0xFD#8 0x24#8 0x8000#16 [(0x8000#16, [0xF0#8, 0x05#8])])) =
      some (0x00#8, 0x00#8, 0x00#8, 0xFD#8, 0x24#8, 0x8002#16) := by decide

/-- ST2 -/
theorem test_pha_wraps :
    let o := step (boot 0x42#8 0x00#8 0x00#8 0x00#8 0x24#8 0x8000#16 [(0x8000#16, [0x48#8])])
    regs o = some (0x42#8, 0x00#8, 0x00#8, 0xFF#8, 0x24#8, 0x8001#16) ∧
    byteAt 0x0100#16 o = some 0x42#8 := by decide

/-- ST4 -/
theorem test_php :
    let o := step (boot 0x00#8 0x00#8 0x00#8 0xFD#8 0xE3#8 0x8000#16 [(0x8000#16, [0x08#8])])
    regs o = some (0x00#8, 0x00#8, 0x00#8, 0xFC#8, 0xE3#8, 0x8001#16) ∧
    byteAt 0x01FD#16 o = some 0xF3#8 := by decide

/-- ST5 -/
theorem test_pla :
    regs (step (boot 0x55#8 0x00#8 0x00#8 0xFC#8 0x24#8 0x8000#16 [(0x8000#16, [0x68#8]), (0x01FD#16, [0x00#8])])) =
      some (0x00#8, 0x00#8, 0x00#8, 0xFD#8, 0x26#8, 0x8001#16) := by decide

/-- ST6 -/
theorem test_pla_wraps :
    regs (step (boot 0x00#8 0x00#8 0x00#8 0xFF#8 0x24#8 0x8000#16 [(0x8000#16, [0x68#8]), (0x0100#16, [0x80#8])])) =
      some (0x80#8, 0x00#8, 0x00#8, 0x00#8, 0xA4#8, 0x8001#16) := by decide

/-- ST7 -/
theorem test_plp_clears_b :
    regs (step (boot 0x00#8 0x00#8 0x00#8 0xFC#8 0x24#8 0x8000#16 [(0x8000#16, [0x28#8]), (0x01FD#16, [0xFF#8])])) =
      some (0x00#8, 0x00#8, 0x00#8, 0xFD#8, 0xEF#8, 0x8001#16) := by decide

/-- ST8 -/
theorem test_plp_sets_u :
    regs (step (boot 0x00#8 0x00#8 0x00#8 0xFC#8 0x24#8 0x8000#16 [(0x8000#16, [0x28#8]), (0x01FD#16, [0x00#8])])) =
      some (0x00#8, 0x00#8, 0x00#8, 0xFD#8, 0x20#8, 0x8001#16) := by decide

/-- ST9 -/
theorem test_clc :
    regs (step (boot 0x00#8 0x00#8 0x00#8 0xFD#8 0x25#8 0x8000#16 [(0x8000#16, [0x18#8])])) =
      some (0x00#8, 0x00#8, 0x00#8, 0xFD#8, 0x24#8, 0x8001#16) := by decide

/-- ST10 -/
theorem test_sec :
    regs (step (boot 0x00#8 0x00#8 0x00#8 0xFD#8 0x24#8 0x8000#16 [(0x8000#16, [0x38#8])])) =
      some (0x00#8, 0x00#8, 0x00#8, 0xFD#8, 0x25#8, 0x8001#16) := by decide

/-- ST11 -/
theorem test_cli :
    regs (step (boot 0x00#8 0x00#8 0x00#8 0xFD#8 0x24#8 0x8000#16 [(0x8000#16, [0x58#8])])) =
      some (0x00#8, 0x00#8, 0x00#8, 0xFD#8, 0x20#8, 0x8001#16) := by decide

/-- ST12 -/
theorem test_sei :
    regs (step (boot 0x00#8 0x00#8 0x00#8 0xFD#8 0x20#8 0x8000#16 [(0x8000#16, [0x78#8])])) =
      some (0x00#8, 0x00#8, 0x00#8, 0xFD#8, 0x24#8, 0x8001#16) := by decide

/-- ST13 -/
theorem test_cld :
    regs (step (boot 0x00#8 0x00#8 0x00#8 0xFD#8 0x2C#8 0x8000#16 [(0x8000#16, [0xD8#8])])) =
      some (0x00#8, 0x00#8, 0x00#8, 0xFD#8, 0x24#8, 0x8001#16) := by decide

/-- ST14 -/
theorem test_sed :
    regs (step (boot 0x00#8 0x00#8 0x00#8 0xFD#8 0x24#8 0x8000#16 [(0x8000#16, [0xF8#8])])) =
      some (0x00#8, 0x00#8, 0x00#8, 0xFD#8, 0x2C#8, 0x8001#16) := by decide

/-- ST15 -/
theorem test_clv :
    regs (step (boot 0x00#8 0x00#8 0x00#8 0xFD#8 0x64#8 0x8000#16 [(0x8000#16, [0xB8#8])])) =
      some (0x00#8, 0x00#8, 0x00#8, 0xFD#8, 0x24#8, 0x8001#16) := by decide

/-- ST16 -/
theorem test_nop :
    regs (step (boot 0x00#8 0x00#8 0x00#8 0xFD#8 0x24#8 0x8000#16 [(0x8000#16, [0xEA#8])])) =
      some (0x00#8, 0x00#8, 0x00#8, 0xFD#8, 0x24#8, 0x8001#16) := by decide

/-! ## Faults, interrupts, reset -/

/-- EX1 -/
theorem test_unknown_opcode_02 :
    let s := boot 0x00#8 0x00#8 0x00#8 0xFD#8 0x24#8 0x8000#16 [(0x8000#16, [0x02#8])]
    faultOf (step s) = some (.invalidOpcode 0x8000#16 0x02#8 s) := by decide

/-- EX2 -/
theorem test_unknown_opcode_ff :
    let s := boot 0x11#8 0x00#8 0x00#8 0xFD#8 0xA5#8 0x8000#16 [(0x8000#16, [0xFF#8, 0xA9#8, 0x01#8])]
    faultOf (step s) = some (.invalidOpcode 0x8000#16 0xFF#8 s) := by decide

/-- EX3 -/
theorem test_irq_taken :
    let o := step ((boot 0x00#8 0x00#8 0x00#8 0xFD#8 0x21#8 0x8003#16 [(0x8003#16, [0xEA#8]),
      (0xFFFA#16, [0x00#8, 0xA0#8]), (0xFFFE#16, [0x00#8, 0x90#8])]).drive
      [⟨false, false, true⟩])
    regs o = some (0x00#8, 0x00#8, 0x00#8, 0xFA#8, 0x25#8, 0x9000#16) ∧
    byteAt 0x01FD#16 o = some 0x80#8 ∧
    byteAt 0x01FC#16 o = some 0x03#8 ∧
    byteAt 0x01FB#16 o = some 0x21#8 := by decide

/-- EX4 -/
theorem test_irq_masked :
    let o := step ((boot 0x00#8 0x00#8 0x00#8 0xFD#8 0x25#8 0x8003#16 [(0x8003#16, [0xEA#8]),
      (0xFFFA#16, [0x00#8, 0xA0#8]), (0xFFFE#16, [0x00#8, 0x90#8])]).drive
      [⟨false, false, true⟩])
    regs o = some (0x00#8, 0x00#8, 0x00#8, 0xFD#8, 0x25#8, 0x8004#16) := by decide

/-- EX5 -/
theorem test_nmi_taken :
    let o := step ((boot 0x00#8 0x00#8 0x00#8 0xFD#8 0x25#8 0x8003#16 [(0x8003#16, [0xEA#8]),
      (0xFFFA#16, [0x00#8, 0xA0#8]), (0xFFFE#16, [0x00#8, 0x90#8])]).drive
      [⟨false, true, false⟩])
    regs o = some (0x00#8, 0x00#8, 0x00#8, 0xFA#8, 0x25#8, 0xA000#16) ∧
    byteAt 0x01FD#16 o = some 0x80#8 ∧
    byteAt 0x01FC#16 o = some 0x03#8 ∧
    byteAt 0x01FB#16 o = some 0x25#8 := by decide

/-- EX6 -/
theorem test_nmi_beats_irq :
    let o := step ((boot 0x00#8 0x00#8 0x00#8 0xFD#8 0x21#8 0x8003#16 [(0x8003#16, [0xEA#8]),
      (0xFFFA#16, [0x00#8, 0xA0#8]), (0xFFFE#16, [0x00#8, 0x90#8])]).drive
      [⟨false, true, true⟩])
    regs o = some (0x00#8, 0x00#8, 0x00#8, 0xFA#8, 0x25#8, 0xA000#16) ∧
    byteAt 0x01FD#16 o = some 0x80#8 ∧
    byteAt 0x01FC#16 o = some 0x03#8 ∧
    byteAt 0x01FB#16 o = some 0x21#8 := by decide

/-- EX8 -/
theorem test_irq_stack_wraps :
    let o := step ((boot 0x00#8 0x00#8 0x00#8 0x01#8 0x20#8 0x12FF#16 [(0x12FF#16, [0xEA#8]),
      (0xFFFA#16, [0x00#8, 0xA0#8]), (0xFFFE#16, [0x00#8, 0x90#8])]).drive
      [⟨false, false, true⟩])
    regs o = some (0x00#8, 0x00#8, 0x00#8, 0xFE#8, 0x24#8, 0x9000#16) ∧
    byteAt 0x0101#16 o = some 0x12#8 ∧
    byteAt 0x0100#16 o = some 0xFF#8 ∧
    byteAt 0x01FF#16 o = some 0x20#8 := by decide

/-- R340: a reset request, with the reset vector at 0xFFFC, beats an NMI. -/
theorem test_reset_request :
    let o := step ((boot 0x11#8 0x22#8 0x33#8 0x44#8 0xEF#8 0x8000#16 [(0xFFFC#16, [0x34#8, 0x12#8])]).drive
      [⟨true, true, true⟩])
    regs o = some (0x00#8, 0x00#8, 0x00#8, 0xFD#8, 0x24#8, 0x1234#16) := by decide

/-- The reset state runs the instruction placed where it fetches next: `LDA #$7F`, `JMP $1234`. -/
theorem test_reset_runs_placed_lda :
    regs (step (State.reset.withFetchWord 16 0x7FA9)) =
      some (0x7F#8, 0x00#8, 0x00#8, 0xFD#8, 0x24#8, 0x0002#16) := by decide

theorem test_reset_runs_placed_jmp :
    regs (step (State.reset.withFetchWord 24 0x12344C)) =
      some (0x00#8, 0x00#8, 0x00#8, 0xFD#8, 0x24#8, 0x1234#16) := by decide

/-! ## `NesBus` and the PPU block -/

/-- A machine on `NesBus`, registers as after reset with `PC` at 0x8000, bytes at 0x8000. -/
def nes (u : Ppu) (bytes : List Byte) : State :=
  pokeBytes 0x8000#16 bytes { freshState Session.empty [] with cpu := Cpu.atReset 0x8000#16, ppu := u }

/-- The PPU block after reset with another latch and buffer. -/
def ppuAt (addr : Word) (buf : Byte) : Ppu := { Ppu.atReset with addr := addr, buf := buf }

/-- NB2: the `INC` of the data port reads at one address and writes at the next. -/
theorem test_inc_data_port :
    let o := step (nes (ppuAt 0x2000#16 0x41#8) [0xEE#8, 0x07#8, 0x20#8])
    ports o = some (0x2002#16, true, 0x00#8, 0x00#8) ∧ regs o = some (0x00#8, 0x00#8, 0x00#8, 0xFD#8, 0x24#8, 0x8003#16) := by
  decide

/-- NB1: RAM is seen four times. -/
theorem test_ram_mirror :
    byteAt 0x1800#16 (step (nes Ppu.atReset [0x8D#8, 0x00#8, 0x08#8])) = some 0x00#8 ∧
    byteAt 0x1000#16 (exec (.staAbs 0x0800#16) ((nes Ppu.atReset []).setReg .a 0x5A#8)) = some 0x5A#8 := by decide

/-- TR29: a palette read through the data port. -/
theorem test_lda_data_port_palette :
    let o := step (nes { ppuAt 0x3F05#16 0x77#8 with palette := [(5, 0x1A#8)] } [0xAD#8, 0x07#8, 0x20#8])
    ports o = some (0x3F06#16, true, 0x00#8, 0x77#8) ∧ regs o = some (0x1A#8, 0x00#8, 0x00#8, 0xFD#8, 0x24#8, 0x8003#16) := by
  decide

/-- P5a, TR30: a reserved latch faults and nothing changes. -/
theorem test_reserved_latch_faults :
    let s := nes (ppuAt 0x3000#16 0x77#8) [0xAD#8, 0x07#8, 0x20#8]
    faultOf (step s) = some (.invalidAddressSpace 0x3000#16 s) := by decide

/-- P5b, P5c, P5d, and a read of the write-only control port. -/
theorem test_bus_refusals :
    refusalOf (step (nes Ppu.atReset [0xAD#8, 0x02#8, 0x20#8])) = some (.ppuRegister 0x2002#16) ∧
    refusalOf (step (nes Ppu.atReset [0x8D#8, 0x00#8, 0x80#8])) = some (.readOnly 0x8000#16) ∧
    refusalOf (step (nes Ppu.atReset [0xAD#8, 0x16#8, 0x40#8])) = some (.unmapped 0x4016#16) ∧
    refusalOf (step (nes Ppu.atReset [0xAD#8, 0x00#8, 0x20#8])) = some (.writeOnlyPort 0x2000#16) := by decide

/-- PP1, PP3: the third write starts a new pair; the first write keeps the old low byte. -/
theorem test_address_port :
    writeAddressPort 0x00#8 (writeAddressPort 0x21#8 Ppu.atReset) = ppuAt 0x2100#16 0x00#8 ∧
    writeAddressPort 0x3F#8 (ppuAt 0x2100#16 0x00#8) = { ppuAt 0x3F00#16 0x00#8 with hiNext := false } ∧
    writeAddressPort 0x7F#8 (ppuAt 0x1234#16 0x00#8) = { ppuAt 0x3F34#16 0x00#8 with hiNext := false } := by decide

/-- PP5, PP7: the step is bit 2 of the control byte, and the latch wraps at 0x4000. -/
theorem test_increment :
    incrementVramAddress (ppuAt 0x3FFF#16 0x00#8) = ppuAt 0x0000#16 0x00#8 ∧
    (incrementVramAddress (writeControlPort 0x04#8 (ppuAt 0x3FF0#16 0x00#8))).addr = 0x0010#16 ∧
    (incrementVramAddress (writeControlPort 0xFB#8 (ppuAt 0x2022#16 0x00#8))).addr = 0x2023#16 := by decide

/-- S1: spot values of the mirroring. -/
theorem test_mirroring :
    mirrorNametableAddress .horizontal 0x2400#16 = some 0x000 ∧ mirrorNametableAddress .vertical 0x2400#16 = some 0x400 ∧
    mirrorNametableAddress .horizontal 0x2BFF#16 = some 0x7FF ∧ mirrorNametableAddress .vertical 0x2BFF#16 = some 0x3FF ∧
    mirrorNametableAddress .horizontal 0x3EFF#16 = some 0x6FF ∧ mirrorNametableAddress .vertical 0x3F00#16 = none := by
  decide

/-- FourScreen is refused at construction (spec/92_eei_decisions.md D27). -/
theorem test_four_screen_refused :
    (match constructSession .nes .fourScreen [] .kib16 [] with
      | .next _ => false
      | .fault _ => false
      | .refused r => r == .fourScreen) = true := by decide

/-! ## The tracer -/

/-- TR4 -/
theorem test_trace_zpx :
    let s := boot 0x00#8 0x20#8 0x00#8 0xFD#8 0x24#8 0x8000#16 [(0x8000#16, [0xB5#8, 0xF0#8]), (0x0010#16, [0x22#8])]
    String.ofList (trace (hookView (peek s 0x8000#16) s)) =
      "8000  B5 F0     LDA $F0,X @ 10 = 22             A:00 X:20 Y:00 P:24 SP:FD" := by rfl

/-- TR8 -/
theorem test_trace_abx :
    let s := boot 0x00#8 0x02#8 0x00#8 0xFD#8 0x24#8 0x8000#16 [(0x8000#16, [0xBD#8, 0xFF#8, 0xFF#8]), (0x0001#16, [0x55#8])]
    String.ofList (trace (hookView (peek s 0x8000#16) s)) =
      "8000  BD FF FF  LDA $FFFF,X @ 0001 = 55         A:00 X:02 Y:00 P:24 SP:FD" := by rfl

/-- TR10 -/
theorem test_trace_izx :
    let s := boot 0x00#8 0x04#8 0x00#8 0xFD#8 0x24#8 0x8000#16 [(0x8000#16, [0xA1#8, 0x20#8]), (0x0024#16, [0x74#8, 0x20#8]), (0x2074#16, [0x5A#8])]
    String.ofList (trace (hookView (peek s 0x8000#16) s)) =
      "8000  A1 20     LDA ($20,X) @ 24 = 2074 = 5A    A:00 X:04 Y:00 P:24 SP:FD" := by rfl

/-- TR13 -/
theorem test_trace_izy :
    let s := boot 0xFF#8 0x00#8 0x10#8 0xFD#8 0xA5#8 0x8000#16 [(0x8000#16, [0xB1#8, 0x33#8]), (0x0033#16, [0xF8#8, 0x04#8]), (0x0508#16, [0xAB#8])]
    String.ofList (trace (hookView (peek s 0x8000#16) s)) =
      "8000  B1 33     LDA ($33),Y = 04F8 @ 0508 = AB  A:FF X:00 Y:10 P:A5 SP:FD" := by rfl

/-- TR15 -/
theorem test_trace_accumulator :
    let s := boot 0x81#8 0x00#8 0x00#8 0xFD#8 0x24#8 0x8000#16 [(0x8000#16, [0x0A#8])]
    String.ofList (trace (hookView (peek s 0x8000#16) s)) =
      "8000  0A        ASL A                           A:81 X:00 Y:00 P:24 SP:FD" := by rfl

/-- TR20 -/
theorem test_trace_branch :
    let s := boot 0x00#8 0x00#8 0x00#8 0xFD#8 0x24#8 0xFFFE#16 [(0xFFFE#16, [0x90#8, 0x10#8])]
    String.ofList (trace (hookView (peek s 0xFFFE#16) s)) =
      "FFFE  90 10     BCC $0010                       A:00 X:00 Y:00 P:24 SP:FD" := by rfl

/-- TR23 -/
theorem test_trace_jmp_ind :
    let s := boot 0x00#8 0x00#8 0x00#8 0xFD#8 0x24#8 0x8000#16 [(0x8000#16, [0x6C#8, 0x20#8, 0x01#8]), (0x0120#16, [0xFC#8, 0xBA#8])]
    String.ofList (trace (hookView (peek s 0x8000#16) s)) =
      "8000  6C 20 01  JMP ($0120)                     A:00 X:00 Y:00 P:24 SP:FD" := by rfl

/-- TR26 -/
theorem test_trace_unknown :
    let s := boot 0xAB#8 0xCD#8 0xEF#8 0x00#8 0xE5#8 0x8000#16 [(0x8000#16, [0xFF#8, 0x12#8, 0x34#8])]
    String.ofList (trace (hookView (peek s 0x8000#16) s)) =
      "8000  FF        ???                             A:AB X:CD Y:EF P:E5 SP:00" := by rfl

/-! ## Witnesses: states and operands that meet the hypotheses of the statements -/

/-- A state about to execute `LDA #$7F`. -/
def ready : State := boot 0x01#8 0x02#8 0x03#8 0xFD#8 0x24#8 0x8000#16 [(0x8000#16, [0xA9#8, 0x7F#8])]

theorem witness_unassigned :
    let s := boot 0x00#8 0x00#8 0x00#8 0xFD#8 0x24#8 0x8000#16 [(0x8000#16, [0xFF#8])]
    0x02#8 ∈ unassignedBytes ∧ 0xFF#8 ∈ unassignedBytes ∧ dueEvent s = .instruction ∧
    readable s s.cpu.pc = true ∧ peek s s.cpu.pc = 0xFF#8 := by decide

theorem witness_encode_inverts_decode : decode [0xA9#8, 0x7F#8, 0x55#8] = .ok (.ldaImm 0x7F#8, [0x55#8]) := by decide

theorem witness_pc_advances :
    (∃ t, exec (.ldaImm 0x7F#8) ready = .next t) ∧
    ∃ e, metaOf (Instr.ldaImm 0x7F#8).opcode = some e ∧ e.mnemonic ∉ controlTransfers :=
  ⟨⟨_, rfl⟩, ⟨_, rfl, by decide⟩⟩

theorem witness_step_runs : dueEvent ready = .instruction ∧ standsAtPc (.ldaImm 0x7F#8) ready := by
  unfold standsAtPc
  decide

theorem witness_nmi :
    let edge := ready.drive [⟨false, true, true⟩]
    let pending := ready.setNmiPending true
    (edge.boundary.reset = false ∧ edge.boundary.nmi = true) ∧
    (pending.boundary.reset = false ∧ pending.cpu.nmiPending = true) := by decide

theorem witness_irq :
    let s := (ready.setP 0x20#8).drive [⟨false, false, true⟩]
    s.boundary = { reset := false, nmi := false, irq := true } ∧ s.cpu.nmiPending = false ∧
    s.flag .interruptDisable = false := by decide

theorem witness_return_undoes_interrupt :
    let nmi := ready.drive [⟨false, true, true⟩]
    let irq := (ready.setP 0x20#8).drive [⟨false, false, true⟩]
    (Memory.wf nmi.ram = true ∧ nmi.flag .brk = false ∧ nmi.flag .unused = true ∧ dueEvent nmi = .nmi ∧
      ∃ t, step nmi = .next t) ∧
    (Memory.wf irq.ram = true ∧ irq.flag .brk = false ∧ irq.flag .unused = true ∧ dueEvent irq = .irq ∧
      ∃ t, step irq = .next t) :=
  ⟨⟨rfl, rfl, rfl, rfl, _, rfl⟩, rfl, rfl, rfl, rfl, _, rfl⟩

theorem witness_irq_masked :
    let s := ready.drive [⟨false, false, true⟩]
    s.boundary.reset = false ∧ s.boundary.nmi = false ∧ s.flag .interruptDisable = true := by decide

theorem witness_reset_request : (ready.drive [⟨true, true, true⟩]).boundary.reset = true := by decide

theorem witness_step_next : (∃ t, step ready = .next t) ∧ ready.boundary.reset = false := ⟨⟨_, rfl⟩, rfl⟩

theorem witness_step_faults :
    (faultOf (step (boot 0x00#8 0x00#8 0x00#8 0xFD#8 0x24#8 0x8000#16 [(0x8000#16, [0x02#8])]))).isSome = true ∧
    (faultOf (step (nes (ppuAt 0x3EFF#16 0x00#8) [0xAD#8, 0x07#8, 0x20#8]))).isSome = true := by decide

theorem witness_hook_called : (hookCall ready).isSome = true := by decide

theorem witness_peek :
    let s := nes (ppuAt 0x2FFF#16 0x00#8) []
    readable s 0x2007#16 = true ∧ readable s 0x2000#16 = false ∧ plain s 0x1FFF#16 = true ∧ plain s 0x8000#16 = true := by
  decide

theorem witness_flat_bus : ready.session.bus = .flat := by decide

theorem witness_nes_bus :
    let s := nes (ppuAt 0x3F00#16 0x00#8) []
    s.session.bus = .nes ∧ (0x1FFF#16).toNat ≤ 0x1FFF ∧ (0x2000#16).toNat % 8 = 0 ∧ (0x3FF8#16).toNat % 8 = 0 ∧
    (0x2006#16).toNat % 8 = 6 ∧ (0x3FFE#16).toNat % 8 = 6 ∧ (0x2007#16).toNat % 8 = 7 ∧ (0x3FFF#16).toNat % 8 = 7 ∧
    (readDataPort s.session s.ppu).isSome = true ∧ (writeDataPort s.session 0x55#8 s.ppu).isSome = true ∧
    (readDataPort s.session (ppuAt 0x3EFF#16 0x00#8)).isNone = true ∧
    (writeDataPort s.session 0x55#8 (ppuAt 0x3EFF#16 0x00#8)).isNone = true ∧
    (0x2001#16).toNat % 8 ∈ [1, 2, 3, 4, 5] ∧ (0x3FFD#16).toNat % 8 ∈ [1, 2, 3, 4, 5] ∧
    0x4000 ≤ (0x7FFF#16).toNat ∧ 0x8000 ≤ (0xFFFF#16).toNat := by decide

theorem witness_loaded_ram :
    let image : List Byte := [0x88#8, 0x11#8]
    ¬(0x67 ≤ 0x66 ∧ 0x66 < 0x67 + image.length) ∧ ¬(0x67 ≤ 0x69 ∧ 0x69 < 0x67 + image.length) := by decide

theorem witness_data_port_answers :
    (readDataPort Session.empty (ppuAt 0x3FFF#16 0x04#8)).isSome = true ∧
    (writeDataPort Session.empty 0x55#8 (ppuAt 0x2FFF#16 0x00#8)).isSome = true := by decide

theorem witness_store_mirror :
    let s := nes Ppu.atReset []
    Memory.wf s.ram = true ∧ route s.session 0x1FFF#16 = .ram 0x7FF ∧ (∃ t, memWrite 0x1FFF#16 0x55#8 s = .next t) :=
  ⟨rfl, rfl, _, rfl⟩

theorem witness_word_access :
    Memory.wf ready.ram = true ∧ route ready.session 0xFFFF#16 = .ram 0xFFFF ∧
    route ready.session (0xFFFF#16 + 1#16) = .ram 0 ∧
    readable ready 0xFFFF#16 = true ∧ readable (afterRead ready 0xFFFF#16) (0xFFFF#16 + 1#16) = true ∧
    writable ready 0xFFFF#16 = true ∧ writable (afterWrite ready 0xFFFF#16 0x33#8) (0xFFFF#16 + 1#16) = true ∧
    (0x0433#16).toNat = (0x04#8).toNat * 256 + (0x33#8).toNat := by decide

theorem witness_effective_address :
    let s := nes (ppuAt 0x3F1F#16 0x00#8) []
    (readable ready 0xFFFF#16 = true ∧ readable (afterRead ready 0xFFFF#16) (0xFFFF#16 + 1#16) = true) ∧
    readable s 0x2007#16 = true ∧ readable s 0x1FFF#16 = true := by decide

/-- Every form with an operand that is read can be read on `FlatBus`, and the data port on `NesBus`. -/
theorem witness_read_forms :
    (∀ f, f ∈ ldaForms 0xFF#8 0xFFFF#16 ++ ldxForms 0xFF#8 0xFFFF#16 ++ ldyForms 0xFF#8 0xFFFF#16 ++
        adcForms 0xFF#8 0xFFFF#16 ++ sbcForms 0xFF#8 0xFFFF#16 ++ andForms 0xFF#8 0xFFFF#16 ++ oraForms 0xFF#8 0xFFFF#16 ++
        eorForms 0xFF#8 0xFFFF#16 ++ cmpForms 0xFF#8 0xFFFF#16 ++ cpxForms 0xFF#8 0xFFFF#16 ++ cpyForms 0xFF#8 0xFFFF#16 ++
        bitForms 0xFF#8 0xFFFF#16 → operandReadable f.operand ready = true) ∧
    operandReadable (.abs 0x2007#16) (nes (ppuAt 0x2FFF#16 0x00#8) []) = true := by decide

theorem witness_store_forms :
    (∀ f, f ∈ staForms 0xFF#8 0xFFFF#16 ++ stxForms 0xFF#8 0xFFFF#16 ++ styForms 0xFF#8 0xFFFF#16 →
      writable ready (peekAddress f.operand ready) = true) ∧
    writable (nes Ppu.atReset []) (peekAddress (.abs 0x2006#16) (nes Ppu.atReset [])) = true := by decide

theorem witness_modify_forms :
    (∀ f, f ∈ aslForms 0xFF#8 0xFFFF#16 ++ lsrForms 0xFF#8 0xFFFF#16 ++ rolForms 0xFF#8 0xFFFF#16 ++
        rorForms 0xFF#8 0xFFFF#16 ++ incForms 0xFF#8 0xFFFF#16 ++ decForms 0xFF#8 0xFFFF#16 →
      operandModifiable f.operand ready = true) ∧
    operandModifiable (.abs 0x2007#16) (nes (ppuAt 0x2FFE#16 0x00#8) []) = true ∧
    operandModifiable (.abs 0x2007#16) (nes (ppuAt 0x2FFF#16 0x00#8) []) = false := by decide

theorem witness_jump_indirect :
    readable ready 0x02FF#16 = true ∧
    readable (afterRead ready 0x02FF#16) (BitVec.ofNat 16 ((0x02FF#16).toNat / 256 * 256 + ((0x02FF#16).toNat + 1) % 256)) =
      true := by decide

theorem witness_return_undoes_call :
    Memory.wf ready.ram = true ∧ ∃ t, exec (.jsr 0x9000#16) ready = .next t := ⟨rfl, _, rfl⟩

theorem witness_return_undoes_break :
    Memory.wf ready.ram = true ∧ ready.flag .brk = false ∧ ready.flag .unused = true ∧ ∃ t, exec .brk ready = .next t :=
  ⟨rfl, rfl, rfl, _, rfl⟩

theorem witness_address_port :
    Ppu.atReset.hiNext = true ∧ (writeAddressPort 0xFF#8 Ppu.atReset).hiNext = false := by decide

theorem witness_mirroring :
    (0x1FFF#16).toNat < 0x2000 ∧ 0x3EFF < (0x3F00#16).toNat ∧ 0x2000 ≤ (0x2000#16).toNat ∧ (0x3EFF#16).toNat ≤ 0x3EFF := by
  decide

theorem witness_data_port_ranges :
    (ppuAt 0x1FFF#16 0x00#8).addr.toNat ≤ 0x1FFF ∧
    0x2000 ≤ (ppuAt 0x2000#16 0x00#8).addr.toNat ∧ (ppuAt 0x2FFF#16 0x00#8).addr.toNat ≤ 0x2FFF ∧
    0x3000 ≤ (ppuAt 0x3000#16 0x00#8).addr.toNat ∧ (ppuAt 0x3EFF#16 0x00#8).addr.toNat ≤ 0x3EFF ∧
    0x3F00 ≤ (ppuAt 0x3F00#16 0x00#8).addr.toNat ∧ (ppuAt 0x3FFF#16 0x00#8).addr.toNat ≤ 0x3FFF ∧
    0x3FFF < (ppuAt 0x4000#16 0x00#8).addr.toNat := by decide

theorem witness_reserved_access :
    let reserved := nes (ppuAt 0x3EFF#16 0x77#8) []
    let beyond := nes (ppuAt 0x4000#16 0x77#8) []
    route reserved.session 0x3FFF#16 = .dataPort ∧ 0x3000 ≤ reserved.ppu.addr.toNat ∧ reserved.ppu.addr.toNat ≤ 0x3EFF ∧
    route beyond.session 0x2007#16 = .dataPort ∧ 0x3FFF < beyond.ppu.addr.toNat := by decide

/-- A buffered read of the pattern region or of a nametable, a palette read and port writes, a buffered read: PP8, PP12. -/
theorem witness_buffered_reads :
    let k := { Session.empty with chr := [(0x1FFF, 0x5E#8)] }
    let cs := [.control 0x04#8, .address 0x3F#8, .address 0x00#8, .paletteRead, .write 0x2C#8, .address 0x2F#8, .address 0xFF#8]
    let first (a : Word) := readDataPort k { ppuAt a 0x00#8 with vram := [(0x400, 0x66#8)] }
    let last (a : Word) := ((first a).bind fun r => portAccesses k r.2 cs).bind fun u => (readDataPort k u).map fun r => r.1
    last 0x1FFF#16 = some 0x5E#8 ∧ last 0x2800#16 = some 0x66#8 ∧
    ((portAccesses k Ppu.atReset cs).bind fun u => (readDataPort k u).map fun r => r.1) = some 0x00#8 := by decide

theorem witness_unknown_opcode : (hookView 0xFF#8 ready).opcode ∈ unassignedBytes := by decide

theorem witness_legal : Legal ready ∧ ∃ t, step ready = .next t := by
  refine ⟨?_, _, rfl⟩
  constructor <;> first | exact ⟨by decide, by decide⟩ | decide

theorem witness_registers_frame :
    (∃ t, exec .pha ready = .next t) ∧ mnemonicOf .pha = some .pha ∧
    Mnemonic.pha ∉ registerWriters .a ∧ Mnemonic.pha ∉ registerWriters .x ∧ Mnemonic.pha ∉ registerWriters .y ∧
    Mnemonic.lda ∉ registerWriters .sp := ⟨⟨_, rfl⟩, by decide⟩

theorem witness_flags_frame :
    (∃ t, exec (.ldaImm 0x7F#8) ready = .next t) ∧ mnemonicOf (.ldaImm 0x7F#8) = some .lda ∧
    Mnemonic.lda ∉ flagWriters .carry := ⟨⟨_, rfl⟩, by decide⟩

theorem witness_no_memory_written :
    (∃ t, exec (.ldaAbs 0x2007#16) (nes (ppuAt 0x2FFF#16 0x00#8) []) = .next t) ∧
    (∃ t, exec (.ldaAbs 0x2007#16) ready = .next t) ∧ ready.session.bus = .flat ∧
    mnemonicOf (.ldaAbs 0x2007#16) = some .lda ∧ Mnemonic.lda ∉ memoryWriters := ⟨⟨_, rfl⟩, ⟨_, rfl⟩, by decide⟩

theorem witness_stores_frame :
    (∃ t, exec (.staAbs 0x2007#16) (nes (ppuAt 0x3F00#16 0x00#8) []) = .next t) ∧
    ⟨.staAbs 0x2007#16, .abs 0x2007#16, [0x8D#8, 0x07#8, 0x20#8]⟩ ∈
      staForms 0x00#8 0x2007#16 ++ stxForms 0x00#8 0x2007#16 ++ styForms 0x00#8 0x2007#16 ∧
    (∃ r, resolve (.abs 0x2007#16) (nes (ppuAt 0x3F00#16 0x00#8) []) = .next r) ∧
    (∃ t, exec (.incZp 0xFF#8) ready = .next t) ∧ (∃ r, resolve (.zp 0xFF#8) ready = .next r) ∧
    ⟨.incZp 0xFF#8, .zp 0xFF#8, [0xE6#8, 0xFF#8]⟩ ∈
      aslForms 0xFF#8 0x0000#16 ++ lsrForms 0xFF#8 0x0000#16 ++ rolForms 0xFF#8 0x0000#16 ++ rorForms 0xFF#8 0x0000#16 ++
        incForms 0xFF#8 0x0000#16 ++ decForms 0xFF#8 0x0000#16 :=
  ⟨⟨_, rfl⟩, by decide, ⟨_, rfl⟩, ⟨_, rfl⟩, ⟨_, rfl⟩, by decide⟩

/-- The routes the frame of the stores tells apart. -/
theorem witness_stores_frame_routes :
    let k := (nes Ppu.atReset []).session
    route k (peekAddress (.abs 0x2007#16) (nes Ppu.atReset [])) ≠ .controlPort ∧
    route k 0x2000#16 ≠ .addressPort ∧ route k 0x2000#16 ∉ [.addressPort, .dataPort] ∧
    route k 0x1FFF#16 ∉ [.addressPort, .dataPort] ∧ route k 0x1FFF#16 ≠ .dataPort := by decide

theorem witness_pushes_frame :
    let s := ready.setReg .sp 0x01#8
    (∃ t, exec .pha s = .next t) ∧ (∃ t, exec .php s = .next t) ∧ (∃ t, exec (.jsr 0x9000#16) s = .next t) ∧
    (∃ t, exec .brk s = .next t) ∧ (∃ t, exec .aslAcc s = .next t) ∧ 0x01FE ≠ stackCell s.cpu.sp ∧
    0x01FE ∉ [stackCell s.cpu.sp, stackCell (s.cpu.sp - 1#8), stackCell (s.cpu.sp - 2#8)] :=
  ⟨⟨_, rfl⟩, ⟨_, rfl⟩, ⟨_, rfl⟩, ⟨_, rfl⟩, ⟨_, rfl⟩, by decide, by decide⟩

end Sys2Proof.Tests
end

/-! # What an instruction is made of, and the invariants every step keeps (spec/10_state.md) -/

namespace Sys2Proof.Machine
open Sys2Proof.Safety

/-! ## The flags a status computation writes -/

/-- `q` is the status byte `p` with no flag changed outside `written`. -/
def OnlyFlags (written : List Flag) (p q : Byte) : Prop := ∀ f, f ∉ written → testFlag q f = testFlag p f

theorem OnlyFlags.refl (written : List Flag) (p : Byte) : OnlyFlags written p p := fun _ _ => rfl

theorem OnlyFlags.putFlag {written : List Flag} {p q : Byte} (h : OnlyFlags written p q) {f : Flag}
    (hf : f ∈ written) (v : Bool) : OnlyFlags written p (putFlag q f v) := by
  intro g hg
  rw [testFlag_putFlag, if_neg (ne_of_mem_of_not_mem hf hg).symm, h g hg]

theorem OnlyFlags.setZN {written : List Flag} {p q : Byte} (h : OnlyFlags written p q) (hz : .zero ∈ written)
    (hn : .negative ∈ written) (v : Byte) : OnlyFlags written p (setZN v q) :=
  (h.putFlag hz _).putFlag hn _

theorem onlyFlags_setZN (v p : Byte) : OnlyFlags [.zero, .negative] p (setZN v p) :=
  (OnlyFlags.refl _ p).setZN (by decide) (by decide) v

theorem onlyFlags_adcStatus (a m p : Byte) :
    OnlyFlags [.carry, .zero, .overflow, .negative] p (adcStatus a m p) :=
  (((OnlyFlags.refl _ p).putFlag (by decide) _).putFlag (by decide) _).setZN (by decide) (by decide) _

theorem onlyFlags_compareStatus (r m p : Byte) :
    OnlyFlags [.carry, .zero, .negative] p (compareStatus r m p) :=
  (((OnlyFlags.refl _ p).putFlag (by decide) _).putFlag (by decide) _).putFlag (by decide) _

theorem onlyFlags_bitStatus (a m p : Byte) :
    OnlyFlags [.zero, .overflow, .negative] p (bitStatus a m p) :=
  (((OnlyFlags.refl _ p).putFlag (by decide) _).putFlag (by decide) _).putFlag (by decide) _

/-- Every shift and rotate sets the carry to a bit shifted out, then Z and N. -/
theorem onlyFlags_carry_setZN (v p : Byte) (c : Bool) :
    OnlyFlags [.carry, .zero, .negative] p (setZN v (putFlag p .carry c)) :=
  ((OnlyFlags.refl _ p).putFlag (by decide) c).setZN (by decide) (by decide) v

/-! ## The registers and flags of each shape -/

/-- The flags an accumulator operation writes (spec/43_arithmetic_logic.md R152 to R156). -/
def AluKind.flags (k : AluKind) : List Flag :=
  match k with
  | .adc | .sbc => [.carry, .zero, .overflow, .negative]
  | .and | .ora | .eor => [.zero, .negative]

/-- The flags a compare or bit test writes (R157 to R160). -/
def TestKind.flags (k : TestKind) : List Flag :=
  match k with
  | .cmp | .cpx | .cpy => [.carry, .zero, .negative]
  | .bit => [.zero, .overflow, .negative]

/-- The flags a read-modify-write writes (spec/44_shift_inc_dec.md R171 to R176). -/
def ModifyKind.flags (k : ModifyKind) : List Flag :=
  match k with
  | .asl | .lsr | .rol | .ror => [.carry, .zero, .negative]
  | .inc | .dec => [.zero, .negative]

/-- The flags an instruction of the shape may write (spec/10_state.md R18). -/
def Shape.flagsWritten (k : Shape) : List Flag :=
  match k with
  | .load _ _ | .count _ | .move _ | .pla => [.zero, .negative]
  | .alu k _ => k.flags
  | .test k _ => k.flags
  | .memory k _ => k.flags
  | .accumulator _ => [.carry, .zero, .negative]
  | .flag k => [k.flag]
  | .brk => [.interruptDisable]
  | .plp | .rti =>
    [.carry, .zero, .interruptDisable, .decimal, .brk, .unused, .overflow, .negative]
  | .store _ _ | .txs | .nop | .branch _ _ | .jump _ | .jumpVia _ | .call _ | .ret | .pha | .php => []

/-- The 8-bit registers an instruction of the shape may write (R11 to R14). -/
def Shape.regsWritten (k : Shape) : List Reg :=
  match k with
  | .load r _ => [r]
  | .alu _ _ | .accumulator _ => [.a]
  | .count k => [k.reg]
  | .move k => [k.target]
  | .pla => [.a, .sp]
  | .txs | .call _ | .ret | .rti | .brk | .pha | .php | .plp => [.sp]
  | .store _ _ | .test _ _ | .memory _ _ | .nop | .flag _ | .branch _ _ | .jump _ | .jumpVia _ => []

theorem AluKind.onlyFlags_status (k : AluKind) (a m p : Byte) : OnlyFlags k.flags p (k.status a m p) := by
  cases k with
  | adc | sbc => exact onlyFlags_adcStatus _ _ _
  | and | ora | eor => exact onlyFlags_setZN _ _

theorem TestKind.onlyFlags_status (k : TestKind) (r m p : Byte) : OnlyFlags k.flags p (k.status r m p) := by
  cases k with
  | cmp | cpx | cpy => exact onlyFlags_compareStatus _ _ _
  | bit => exact onlyFlags_bitStatus _ _ _

theorem ModifyKind.onlyFlags_op (k : ModifyKind) (m p : Byte) : OnlyFlags k.flags p (k.op m p).2 := by
  cases k with
  | asl | lsr | rol | ror => exact onlyFlags_carry_setZN _ _ _
  | inc | dec => exact onlyFlags_setZN _ _

theorem ShiftKind.onlyFlags_op (k : ShiftKind) (m p : Byte) :
    OnlyFlags [.carry, .zero, .negative] p (k.op m p).2 := by
  cases k <;> exact onlyFlags_carry_setZN _ _ _

theorem CountKind.onlyFlags_op (k : CountKind) (m p : Byte) : OnlyFlags [.zero, .negative] p (k.op m p).2 := by
  cases k <;> exact onlyFlags_setZN _ _

/-- Every flag a shape may write has the shape's mnemonic among its writers. -/
theorem Shape.mnemonic_mem_flagWriters (k : Shape) : ∀ f ∈ k.flagsWritten, k.mnemonic ∈ flagWriters f := by
  cases k with
  | load r _ => cases r <;> simp [flagsWritten, mnemonic, flagWriters]
  | alu k _ => cases k <;> simp [flagsWritten, AluKind.flags, mnemonic, flagWriters]
  | test k _ => cases k <;> simp [flagsWritten, TestKind.flags, mnemonic, flagWriters]
  | memory k _ => cases k <;> simp [flagsWritten, ModifyKind.flags, mnemonic, flagWriters]
  | accumulator k => cases k <;> simp [flagsWritten, mnemonic, flagWriters]
  | count k => cases k <;> simp [flagsWritten, mnemonic, flagWriters]
  | move k => cases k <;> simp [flagsWritten, mnemonic, flagWriters]
  | flag k => cases k <;> simp [flagsWritten, FlagKind.flag, mnemonic, flagWriters]
  | rti | brk | pla | plp => simp [flagsWritten, mnemonic, flagWriters]
  | store | txs | nop | branch | jump | jumpVia | call | ret | pha | php => exact nofun

/-- Every register an instruction may write has the instruction's mnemonic among its writers. -/
theorem mnemonic_mem_registerWriters (i : Instr) :
    ∀ r ∈ (shapeOf i).regsWritten, (shapeOf i).mnemonic ∈ registerWriters r := by
  have hsp := (shapeOf_regs i).1
  cases hk : shapeOf i with
  | load r op =>
    cases r with
    | a | x | y => simp [Shape.regsWritten, Shape.mnemonic, registerWriters]
    | sp => exact absurd hk (hsp op)
  | alu k _ => cases k <;> simp [Shape.regsWritten, Shape.mnemonic, registerWriters]
  | accumulator k => cases k <;> simp [Shape.regsWritten, Shape.mnemonic, registerWriters]
  | count k => cases k <;> simp [Shape.regsWritten, CountKind.reg, Shape.mnemonic, registerWriters]
  | move k => cases k <;> simp [Shape.regsWritten, MoveKind.target, Shape.mnemonic, registerWriters]
  | txs | call | ret | rti | brk | pha | php | pla | plp =>
    simp [Shape.regsWritten, Shape.mnemonic, registerWriters]
  | store | test | memory | nop | flag | branch | jump | jumpVia => exact nofun

/-! ## Runs: what an instruction is made of -/

/-- The states that bus accesses, writes of `PC`, of the registers in `regs` and of the flags in `flags` lead to. -/
inductive Runs (regs : List Reg) (flags : List Flag) (s : State) : State → Prop where
  | refl : Runs regs flags s s
  | read {t : State} (a : Word) : Runs regs flags s t → Runs regs flags s (afterRead t a)
  | write {t : State} (a : Word) (v : Byte) : Runs regs flags s t → Runs regs flags s (afterWrite t a v)
  | setReg {t : State} {r : Reg} (v : Byte) : r ∈ regs → Runs regs flags s t → Runs regs flags s (t.setReg r v)
  | setP {t : State} {p : Byte} : OnlyFlags flags t.cpu.p p → Runs regs flags s t → Runs regs flags s (t.setP p)
  | setPc {t : State} (w : Word) : Runs regs flags s t → Runs regs flags s (t.setPc w)

@[simp] theorem afterWrite_oam (s : State) (a : Word) (v : Byte) : (afterWrite s a v).ppu.oam = s.ppu.oam := by
  unfold afterWrite
  cases route s.session a with
  | dataPort =>
    cases hu : writeDataPort s.session v s.ppu with
    | none => rfl
    | some u => obtain ⟨-, rfl⟩ | ⟨-, rfl⟩ | ⟨-, rfl⟩ := writeDataPort_eq_some hu <;> rfl
  | ram | prg | controlPort | addressPort | ppuRegister | unmapped => rfl

@[simp] theorem setReg_cpu_p (s : State) (r : Reg) (v : Byte) : (s.setReg r v).cpu.p = s.cpu.p :=
  (setReg_fields s v r).2.1

namespace Runs
variable {regs : List Reg} {flags : List Flag} {s t u : State}

theorem trans (hst : Runs regs flags s t) (htu : Runs regs flags t u) : Runs regs flags s u := by
  induction htu with
  | refl => exact hst
  | read a _ ih => exact ih.read a
  | write a v _ ih => exact ih.write a v
  | setReg v hr _ ih => exact ih.setReg v hr
  | setP hp _ ih => exact ih.setP hp
  | setPc w _ ih => exact ih.setPc w

theorem ofReads (h : ReadsFrom s t) : Runs regs flags s t := by
  induction h with
  | refl => exact .refl
  | read _ a _ ih => exact ih.read a

theorem advance (h : Runs regs flags s t) (n : Nat) : Runs regs flags s (t.advance n) := h.setPc _

theorem operandAfter (h : Runs regs flags s t) (op : Operand) : Runs regs flags s (operandAfter op t) := by
  obtain e | e := operandAfter_eq op t <;> rw [e]
  · exact h
  · exact h.read _

/-- The result of the shapes that write one register and the status. -/
theorem setReg_setP {p v : Byte} {r : Reg} (h : Runs regs flags s t) (hr : r ∈ regs)
    (hp : OnlyFlags flags t.cpu.p p) : Runs regs flags s ((t.setReg r v).setP p) :=
  (h.setReg v hr).setP (by rwa [setReg_cpu_p])

theorem memRead {a : Word} {q : Byte × State} (h : Runs regs flags s t) (hq : memRead a t = .next q) :
    Runs regs flags s q.2 := by
  obtain ⟨-, rfl⟩ := memRead_eq_next hq
  exact h.read a

theorem memRead16 {a : Word} {q : Word × State} (h : Runs regs flags s t) (hq : memRead16 a t = .next q) :
    Runs regs flags s q.2 := by
  obtain ⟨l, hl, hq⟩ := chain_eq_next.mp hq
  obtain ⟨m, hm, hq⟩ := chain_eq_next.mp hq
  cases hq
  exact (h.memRead hl).memRead hm

theorem push (h : Runs regs flags s t) (hsp : .sp ∈ regs) {v : Byte} (hu : push v t = .next u) :
    Runs regs flags s u := by
  obtain ⟨m, hm, hu⟩ := chain_eq_next.mp hu
  obtain ⟨-, rfl⟩ := memWrite_eq_next hm
  cases hu
  exact (h.write _ _).setReg _ hsp

theorem pull (h : Runs regs flags s t) (hsp : .sp ∈ regs) {q : Byte × State} (hq : pull t = .next q) :
    Runs regs flags s q.2 :=
  (h.setReg _ hsp).memRead hq

theorem pushWord (h : Runs regs flags s t) (hsp : .sp ∈ regs) {w : Word} (hu : pushWord w t = .next u) :
    Runs regs flags s u := by
  obtain ⟨m, hm, hu⟩ := chain_eq_next.mp hu
  exact (h.push hsp hm).push hsp hu

theorem pullWord (h : Runs regs flags s t) (hsp : .sp ∈ regs) {q : Word × State} (hq : pullWord t = .next q) :
    Runs regs flags s q.2 := by
  obtain ⟨l, hl, hq⟩ := chain_eq_next.mp hq
  obtain ⟨m, hm, hq⟩ := chain_eq_next.mp hq
  cases hq
  exact (h.pull hsp hl).pull hsp hm

/-! ### What a run keeps -/

theorem regsKept (h : Runs regs flags s t) : regsKept regs s t := by
  intro q hq
  induction h with
  | refl => rfl
  | read a _ ih => rw [reg_congr (afterRead_cpu _ a), ih]
  | write a v _ ih => rw [reg_congr (afterWrite_cpu _ a v), ih]
  | setReg v hr _ ih => rw [reg_setReg_other _ _ _ _ (ne_of_mem_of_not_mem hr hq).symm, ih]
  | setP _ _ ih => rw [reg_setP, ih]
  | setPc w _ ih => rw [reg_setPc, ih]

theorem flagsKept (h : Runs regs flags s t) : flagsKept flags s t := by
  intro f hf
  induction h with
  | refl => rfl
  | read a _ ih => rw [State.flag, afterRead_cpu]; exact ih
  | write a v _ ih => rw [State.flag, afterWrite_cpu]; exact ih
  | setReg v hr _ ih => rw [State.flag, setReg_cpu_p]; exact ih
  | setP hp _ ih => exact (hp f hf).trans ih
  | setPc w _ ih => exact ih

theorem restKept (h : Runs regs flags s t) : restKept s t := by
  induction h with
  | refl => exact ⟨rfl, rfl, rfl, rfl⟩
  | read a _ ih => simpa [Safety.restKept] using ih
  | write a v _ ih => simpa [Safety.restKept] using ih
  | @setReg t r v _ _ ih =>
    obtain ⟨-, -, hnmi, hppu, -, hsession, hinputs⟩ := setReg_fields t v r
    simpa [Safety.restKept, hnmi, hppu, hsession, hinputs] using ih
  | setP _ _ ih => exact ih
  | setPc w _ ih => exact ih

end Runs

/-! ## Every instruction is a run -/

theorem enter_runs {ret vector : Word} {pushed : Byte} {s t : State} (h : enter ret pushed vector s = .next t) :
    Runs [.sp] [.interruptDisable] s t := by
  obtain ⟨s1, h1, h⟩ := chain_eq_next.mp h
  obtain ⟨s2, h2, h⟩ := chain_eq_next.mp h
  obtain ⟨r, hr, h⟩ := chain_eq_next.mp h
  cases h
  have hsp : Reg.sp ∈ [Reg.sp] := by decide
  have hi : OnlyFlags [.interruptDisable] s2.cpu.p (putFlag s2.cpu.p .interruptDisable true) :=
    (OnlyFlags.refl _ _).putFlag (by decide) true
  exact ((((Runs.refl.pushWord hsp h1).push hsp h2).setP hi).memRead16 hr).setPc _

theorem takeInterrupt_runs {vector : Word} {s t : State} (h : takeInterrupt vector s = .next t) :
    Runs [.sp] [.interruptDisable] s t := enter_runs h

/-- A pulled status may change any flag. -/
theorem onlyFlags_all (p q : Byte) :
    OnlyFlags [.carry, .zero, .interruptDisable, .decimal, .brk, .unused, .overflow, .negative] p q := by
  intro f hf
  cases f <;> simp at hf

/-- What an instruction of the shape may write is all that it writes. -/
theorem Shape.run_runs {k : Shape} {s t : State} (h : k.run s = .next t) :
    Runs k.regsWritten k.flagsWritten s t := by
  cases k with
  | load r op =>
    obtain ⟨-, rfl⟩ := load_eq_next.mp h
    refine ((Runs.refl.operandAfter op).setReg_setP (by simp [regsWritten]) ?_).advance _
    simpa [flagsWritten] using onlyFlags_setZN _ _
  | store r op =>
    obtain ⟨-, rfl⟩ := store_eq_next.mp h
    exact (Runs.refl.write _ _).advance _
  | alu k op =>
    obtain ⟨-, rfl⟩ := accumulate_eq_next.mp h
    refine ((Runs.refl.operandAfter op).setReg_setP (by simp [regsWritten]) ?_).advance _
    simpa [flagsWritten] using k.onlyFlags_status _ _ _
  | test k op =>
    obtain ⟨-, rfl⟩ := examine_eq_next.mp h
    refine ((Runs.refl.operandAfter op).setP ?_).advance _
    simpa [flagsWritten] using k.onlyFlags_status _ _ _
  | memory k op =>
    obtain ⟨-, rfl⟩ := modify_eq_next.mp h
    refine (((Runs.refl.read _).write _ _).setP ?_).advance _
    simpa [flagsWritten] using k.onlyFlags_op _ _
  | accumulator k =>
    cases h
    exact (Runs.refl.setReg_setP (by simp [regsWritten]) (k.onlyFlags_op _ _)).advance _
  | count k =>
    cases h
    exact (Runs.refl.setReg_setP (by simp [regsWritten]) (k.onlyFlags_op _ _)).advance _
  | move k =>
    cases h
    exact (Runs.refl.setReg_setP (by simp [regsWritten]) (onlyFlags_setZN _ _)).advance _
  | txs =>
    cases h
    exact (Runs.refl.setReg _ (by simp [regsWritten])).advance _
  | nop =>
    cases h
    exact Runs.refl.advance _
  | flag k =>
    cases h
    exact (Runs.refl.setP ((OnlyFlags.refl _ _).putFlag (by simp [flagsWritten]) _)).advance _
  | branch k b =>
    change Machine.branch _ b s = _ at h
    unfold Machine.branch at h
    split at h <;> cases h <;> exact Runs.refl.setPc _
  | jump w =>
    cases h
    exact Runs.refl.setPc w
  | jumpVia w =>
    obtain ⟨l, hl, h⟩ := chain_eq_next.mp h
    obtain ⟨m, hm, h⟩ := chain_eq_next.mp h
    cases h
    exact ((Runs.refl.memRead hl).memRead hm).setPc _
  | call w =>
    obtain ⟨u, hu, h⟩ := chain_eq_next.mp h
    cases h
    exact (Runs.refl.pushWord (by simp [regsWritten]) hu).setPc w
  | ret =>
    obtain ⟨q, hq, h⟩ := chain_eq_next.mp h
    cases h
    exact (Runs.refl.pullWord (by simp [regsWritten]) hq).setPc _
  | rti =>
    obtain ⟨r, hr, h⟩ := chain_eq_next.mp h
    obtain ⟨q, hq, h⟩ := chain_eq_next.mp h
    cases h
    have hsp : Reg.sp ∈ regsWritten .rti := by decide
    exact (((Runs.refl.pull hsp hr).setP (onlyFlags_all _ _)).pullWord hsp hq).setPc _
  | brk => exact enter_runs h
  | pha =>
    obtain ⟨u, hu, h⟩ := chain_eq_next.mp h
    cases h
    exact (Runs.refl.push (by simp [regsWritten]) hu).advance _
  | php =>
    obtain ⟨u, hu, h⟩ := chain_eq_next.mp h
    cases h
    exact (Runs.refl.push (by simp [regsWritten]) hu).advance _
  | pla =>
    obtain ⟨r, hr, h⟩ := chain_eq_next.mp h
    cases h
    exact ((Runs.refl.pull (by simp [regsWritten]) hr).setReg_setP (by simp [regsWritten])
      (onlyFlags_setZN _ _)).advance _
  | plp =>
    obtain ⟨r, hr, h⟩ := chain_eq_next.mp h
    cases h
    exact ((Runs.refl.pull (by simp [regsWritten]) hr).setP (onlyFlags_all _ _)).advance _

theorem exec_runs {i : Instr} {s t : State} (h : exec i s = .next t) :
    Runs (shapeOf i).regsWritten (shapeOf i).flagsWritten s t :=
  Shape.run_runs (exec_eq_run i s ▸ h)

end Sys2Proof.Machine

/-! ## Legal states -/

namespace Sys2Proof.Safety
open Sys2Proof.Machine

/-- Whether a state is legal depends on the CPU only through `P.B` and `P.U`. -/
theorem Legal.withCpu {s : State} (h : Legal s) {c : Cpu} (hb : testFlag c.p .brk = false)
    (hu : testFlag c.p .unused = true) : Legal { s with cpu := c } :=
  { h with brk := hb, unused := hu }

theorem Legal.afterRead {s : State} (h : Legal s) (a : Word) : Legal (afterRead s a) := by
  obtain e | ⟨buf, e⟩ := afterRead_eq s a <;> rw [e]
  · exact h
  · exact { h with latch := maskLatch_le _ }

theorem memoryOk_write {size a : Nat} {m : Memory} (h : memoryOk size m) (ha : a < size) (v : Byte) :
    memoryOk size (Memory.write m a v) :=
  have ⟨hwf, hwithin⟩ := h
  ⟨Memory.write_wf hwf a v, Memory.write_within hwithin ha v⟩

theorem Legal.of_writeDataPort {s : State} (h : Legal s) {v : Byte} {u : Ppu}
    (hu : writeDataPort s.session v s.ppu = some u) : Legal (s.setPpu u) := by
  obtain ⟨-, rfl⟩ | ⟨-, rfl⟩ | ⟨-, rfl⟩ := writeDataPort_eq_some hu
  · exact { h with latch := maskLatch_le _ }
  · exact { h with latch := maskLatch_le _, vram := memoryOk_write h.vram (mirrorIndex_lt _ _) v }
  · exact { h with latch := maskLatch_le _, palette := memoryOk_write h.palette (paletteIndex_lt _) v }

theorem Legal.afterWrite {s : State} (h : Legal s) (a : Word) (v : Byte) : Legal (afterWrite s a v) := by
  unfold Safety.afterWrite
  cases hr : route s.session a with
  | ram n => exact { h with ram := memoryOk_write h.ram (route_ram_lt hr) v }
  | controlPort => exact { h with }
  | addressPort => exact { h with latch := maskLatch_le _ }
  | dataPort =>
    cases hu : writeDataPort s.session v s.ppu with
    | none => exact h
    | some u => exact h.of_writeDataPort hu
  | prg | ppuRegister | unmapped => exact h

theorem Legal.passBoundary {s : State} (h : Legal s) : Legal (passBoundary s) := { h with }

theorem Legal.setNmiPending {s : State} (h : Legal s) (b : Bool) : Legal (s.setNmiPending b) := { h with }

/-- The registers and the PPU block of a reset, on the RAM and the session of a legal state. -/
theorem Legal.reset {s : State} (h : Legal s) (pc : Word) (inputs : List Boundary) :
    Legal { cpu := Cpu.atReset pc, ppu := Ppu.atReset, ram := s.ram, session := s.session, inputs := inputs } where
  latch := show (0x0000#16) ≤ 0x3FFF#16 by decide
  brk := show testFlag 0x24#8 .brk = false by decide
  unused := show testFlag 0x24#8 .unused = true by decide
  ram := h.ram
  vram := ⟨rfl, rfl⟩
  palette := ⟨rfl, rfl⟩
  oam := ⟨rfl, rfl⟩
  chr := h.chr
  prg := h.prg

/-- The bus does not see the CPU. -/
theorem afterRead_withCpu (s : State) (c : Cpu) (a : Word) :
    afterRead { s with cpu := c } a = { afterRead s a with cpu := c } := by
  unfold afterRead
  dsimp only
  split <;> rfl

theorem afterWrite_withCpu (s : State) (c : Cpu) (a : Word) (v : Byte) :
    afterWrite { s with cpu := c } a v = { afterWrite s a v with cpu := c } := by
  unfold afterWrite
  dsimp only
  split <;> rfl

theorem setReg_withCpu (s : State) (r : Reg) (v : Byte) (c : Cpu) :
    ({ s.setReg r v with cpu := c } : State) = { s with cpu := c } := by
  cases r <;> rfl

end Sys2Proof.Safety

namespace Sys2Proof.Machine
open Sys2Proof.Safety

/-- A run from a legal state is legal but for the CPU, whose two fixed bits are those of the CPU `c` put in. -/
theorem Runs.legal_withCpu {regs : List Reg} {flags : List Flag} {s t : State} (h : Runs regs flags s t)
    (hs : Legal s) {c : Cpu} (hb : testFlag c.p .brk = false) (hu : testFlag c.p .unused = true) :
    Legal { t with cpu := c } := by
  induction h with
  | refl => exact hs.withCpu hb hu
  | read a _ ih => rw [← afterRead_withCpu]; exact ih.afterRead a
  | write a v _ ih => rw [← afterWrite_withCpu]; exact ih.afterWrite a v
  | setReg v _ _ ih => rw [setReg_withCpu]; exact ih
  | setP _ _ ih => exact ih
  | setPc w _ ih => exact ih

/-- A run that ends with `P.B = 0` and `P.U = 1` keeps a legal state legal. -/
theorem Runs.legal {regs : List Reg} {flags : List Flag} {s t : State} (h : Runs regs flags s t) (hs : Legal s)
    (hb : t.flag .brk = false) (hu : t.flag .unused = true) : Legal t :=
  h.legal_withCpu hs hb hu

/-- A run that writes neither `P.B` nor `P.U` keeps a legal state legal. -/
theorem Runs.legal_of_kept {regs : List Reg} {flags : List Flag} {s t : State} (h : Runs regs flags s t)
    (hs : Legal s) (hb : .brk ∉ flags) (hu : .unused ∉ flags) : Legal t :=
  h.legal hs ((h.flagsKept _ hb).trans hs.brk) ((h.flagsKept _ hu).trans hs.unused)

theorem pulledStatus_brk_unused (p : Byte) :
    testFlag (pulledStatus p) .brk = false ∧ testFlag (pulledStatus p) .unused = true := by
  simp [testFlag_pulledStatus]

/-- `PLP` loads a pulled status. -/
theorem execPlp_p {s t : State} (h : execPlp s = .next t) : ∃ p, t.cpu.p = pulledStatus p := by
  obtain ⟨r, -, h⟩ := chain_eq_next.mp h
  cases h
  exact ⟨r.1, rfl⟩

/-- `RTI` loads a pulled status; the pulls of `PC` after it leave `P` alone. -/
theorem execRti_p {s t : State} (h : execRti s = .next t) : ∃ p, t.cpu.p = pulledStatus p := by
  obtain ⟨r, -, h⟩ := chain_eq_next.mp h
  rw [pullWord_eq, chain_next] at h
  cases h
  exact ⟨r.1, rfl⟩

/-- `P.B` and `P.U` are loaded only by the shapes that pull `P`. -/
theorem Shape.pulls_or_keeps_brk_unused {k : Shape} {s t : State} (h : k.run s = .next t) :
    (∃ p, t.cpu.p = pulledStatus p) ∨ (.brk ∉ k.flagsWritten ∧ .unused ∉ k.flagsWritten) := by
  cases k with
  | plp => exact .inl (execPlp_p h)
  | rti => exact .inl (execRti_p h)
  | alu k _ => right; cases k <;> simp [flagsWritten, AluKind.flags]
  | test k _ => right; cases k <;> simp [flagsWritten, TestKind.flags]
  | memory k _ => right; cases k <;> simp [flagsWritten, ModifyKind.flags]
  | flag k => right; cases k <;> simp [flagsWritten, FlagKind.flag]
  | _ => right; simp [flagsWritten]

theorem exec_legal {i : Instr} {s t : State} (h : exec i s = .next t) (hs : Legal s) : Legal t := by
  have hruns := exec_runs h
  rw [exec_eq_run] at h
  obtain ⟨p, hp⟩ | ⟨hb, hu⟩ := Shape.pulls_or_keeps_brk_unused h
  · obtain ⟨hb, hu⟩ := pulledStatus_brk_unused p
    exact hruns.legal hs (by rwa [State.flag, hp]) (by rwa [State.flag, hp])
  · exact hruns.legal_of_kept hs hb hu

theorem takeInterrupt_legal {vector : Word} {s t : State} (h : takeInterrupt vector s = .next t) (hs : Legal s) :
    Legal t :=
  (takeInterrupt_runs h).legal_of_kept hs (by decide) (by decide)

/-! ## Steps -/

theorem dueEvent_reset {s : State} (h : dueEvent s = .reset) : s.boundary.reset = true := by
  unfold dueEvent at h
  split_ifs at h with hr
  exact hr

end Sys2Proof.Machine

/-! # The settled statements about the state (spec/10_state.md) -/

namespace Sys2Proof.Proofs
open Sys2Proof Sys2Proof.Machine Sys2Proof.Safety

/-- Settles O52. A step is a reset, which sets the PPU block and `P` anew, an interrupt, which writes of `P` only `I`,
or reads and one instruction; only `PLP` and `RTI` load `P.B` and `P.U`, and both force them. -/
theorem stepKeepsLegalStates : Obligations.StepKeepsLegalStates := by
  intro s t hs h
  have hpass := hs.passBoundary
  obtain ⟨-, rfl⟩ | ⟨-, hn⟩ | ⟨-, hi⟩ | ⟨-, i, q, hq, hx⟩ := step_eq_next h
  · exact hs.reset _ _
  · exact takeInterrupt_legal hn (hpass.setNmiPending false)
  · exact takeInterrupt_legal hi hpass
  · have hfetched : Runs [] [] (passBoundary s) q := .ofReads hq
    exact exec_legal hx (hfetched.legal_of_kept hpass (by decide) (by decide))

/-- Settles O54: past the boundary no run writes the session, the inputs or OAM; of them a reset sets only OAM. -/
theorem stepKeepsSessionAndOam : Obligations.StepKeepsSessionAndOam := by
  intro s t h
  have hkept : t.session = s.session ∧ t.ppu.oam = s.ppu.oam ∧ t.inputs = s.inputs.tail →
      t.session = s.session ∧ t.inputs = s.inputs.tail ∧ (s.boundary.reset = false → t.ppu.oam = s.ppu.oam) :=
    fun ⟨hsession, hoam, hinputs⟩ => ⟨hsession, hinputs, fun _ => hoam⟩
  obtain ⟨hd, rfl⟩ | ⟨-, hn⟩ | ⟨-, hi⟩ | ⟨-, i, q, hq, hx⟩ := step_eq_next h
  · exact ⟨rfl, rfl, fun hno => absurd (dueEvent_reset hd) (by simp [hno])⟩
  · exact hkept (takeInterrupt_runs hn).restKept.2
  · exact hkept (takeInterrupt_runs hi).restKept.2
  · exact hkept ((Runs.ofReads hq).trans (exec_runs hx)).restKept.2

/-- Settles O56: an instruction is a run over the registers of its shape. -/
theorem registersChangeOnlyByTheirWriters : Obligations.RegistersChangeOnlyByTheirWriters := by
  intro i s t m h hm
  rw [mnemonicOf_eq, Option.some_inj] at hm
  subst hm
  exact ⟨fun r hr => (exec_runs h).regsKept r fun hmem => hr (mnemonic_mem_registerWriters i r hmem),
    (exec_runs h).restKept⟩

/-- Settles O57: an instruction is a run over the flags of its shape. -/
theorem flagsChangeOnlyByTheirWriters : Obligations.FlagsChangeOnlyByTheirWriters := by
  intro i s t m f h hm hf
  rw [mnemonicOf_eq, Option.some_inj] at hm
  subst hm
  exact (exec_runs h).flagsKept f fun hmem => hf ((shapeOf i).mnemonic_mem_flagWriters f hmem)

end Sys2Proof.Proofs

/-! # The bus, access by access (spec/20_memory.md) -/

namespace Sys2Proof.Machine
open Sys2Proof.Safety

/-! ## What a loaded memory reads outside the image -/

theorem Memory.read_load_outside (m : Memory) {base n : Nat} (image : List Byte)
    (hn : ¬(base ≤ n ∧ n < base + image.length)) : Memory.read (Memory.load m base image) n = Memory.read m n := by
  induction image generalizing m base with
  | nil => rfl
  | cons b rest ih =>
    rw [List.length_cons] at hn
    rw [Memory.load, ih _ (by omega), Memory.read_write_other m (by omega) b]

/-- RAM starts at 0x00 outside what the host loads (R55, R56). -/
theorem read_freshState_ram (k : Session) {base n : Nat} (image : List Byte)
    (hn : ¬(base ≤ n ∧ n < base + image.length)) :
    Memory.read (freshState k (Memory.load [] base image)).ram n = 0x00#8 :=
  Memory.read_load_outside [] image hn

/-! ## The map of `NesBus` (R56) -/

section
variable {k : Session} {a : Word} (hk : k.bus = .nes)
include hk

theorem route_nes_ram (h : a.toNat ≤ 0x1FFF) : route k a = .ram (a.toNat % 2048) := by
  simp only [route, hk, BitVec.lt_def, BitVec.toNat_ofNat]
  rw [if_pos (by omega)]
  rfl

theorem route_nes_port (h : 0x2000 ≤ a.toNat) (h' : a.toNat ≤ 0x3FFF) : route k a = nesPort a := by
  simp only [route, hk, BitVec.lt_def, BitVec.toNat_ofNat]
  rw [if_neg (by omega), if_pos (by omega)]

theorem route_nes_unmapped (h : 0x4000 ≤ a.toNat) (h' : a.toNat ≤ 0x7FFF) : route k a = .unmapped := by
  simp only [route, hk, BitVec.lt_def, BitVec.toNat_ofNat]
  rw [if_neg (by omega), if_neg (by omega), if_pos (by omega)]

theorem route_nes_prg (h : 0x8000 ≤ a.toNat) : route k a = .prg ((a.toNat - 0x8000) % k.prgSize.bytes) := by
  obtain ⟨hf, -⟩ | ⟨-, hr⟩ := route_high k h
  · rw [hk] at hf; cases hf
  · exact hr

end

/-- `a & 7` of the map is the address mod 8. -/
theorem and_seven_eq_iff (a : Word) {n : Nat} (hn : n < 8) : a &&& 7#16 = BitVec.ofNat 16 n ↔ a.toNat % 8 = n := by
  rw [← BitVec.toNat_inj, BitVec.toNat_and, BitVec.toNat_ofNat, BitVec.toNat_ofNat,
    Nat.mod_eq_of_lt (by omega : n < 2 ^ 16), Nat.mod_eq_of_lt (by decide : 7 < 2 ^ 16),
    Nat.and_two_pow_sub_one_eq_mod a.toNat 3]

theorem nesPort_eq (a : Word) :
    nesPort a = if a.toNat % 8 = 0 then .controlPort else if a.toNat % 8 = 6 then .addressPort
      else if a.toNat % 8 = 7 then .dataPort else .ppuRegister := by
  simp only [nesPort, and_seven_eq_iff a (by decide : 0 < 8), and_seven_eq_iff a (by decide : 6 < 8),
    and_seven_eq_iff a (by decide : 7 < 8)]

/-! ## Read, write and peek of each target -/

section
variable {s : State} {a : Word}

theorem bus_prg (v : Byte) {n : Nat} (h : route s.session a = .prg n) :
    memRead a s = .next (Memory.read s.session.prg n, s) ∧ memWrite a v s = .refused (.readOnly a) ∧
      peek s a = Memory.read s.session.prg n := by
  simp only [memRead, memWrite, peek, h, and_self]

theorem bus_ram (v : Byte) {n : Nat} (h : route s.session a = .ram n) :
    memRead a s = .next (Memory.read s.ram n, s) ∧
      memWrite a v s = .next { s with ram := Memory.write s.ram n v } ∧ peek s a = Memory.read s.ram n :=
  ⟨memRead_ram h, memWrite_ram h, peek_ram h⟩

theorem bus_controlPort (v : Byte) (h : route s.session a = .controlPort) :
    memRead a s = .refused (.writeOnlyPort a) ∧ peek s a = 0x00#8 ∧
      memWrite a v s = .next { s with ppu := writeControlPort v s.ppu } := by
  simp only [memRead, memWrite, peek, h, State.setPpu, and_self]

theorem bus_addressPort (v : Byte) (h : route s.session a = .addressPort) :
    memRead a s = .refused (.writeOnlyPort a) ∧ peek s a = 0x00#8 ∧
      memWrite a v s = .next { s with ppu := writeAddressPort v s.ppu } := by
  simp only [memRead, memWrite, peek, h, State.setPpu, and_self]

theorem bus_ppuRegister (v : Byte) (h : route s.session a = .ppuRegister) :
    memRead a s = .refused (.ppuRegister a) ∧ memWrite a v s = .refused (.ppuRegister a) ∧ peek s a = 0x00#8 := by
  simp only [memRead, memWrite, peek, h, and_self]

theorem bus_unmapped (v : Byte) (h : route s.session a = .unmapped) :
    memRead a s = .refused (.unmapped a) ∧ memWrite a v s = .refused (.unmapped a) ∧ peek s a = 0x00#8 := by
  simp only [memRead, memWrite, peek, h, and_self]

theorem bus_dataPort (v : Byte) (h : route s.session a = .dataPort) :
    peek s a = peekDataPort s.session s.ppu ∧
      (∀ r, readDataPort s.session s.ppu = some r → memRead a s = .next (r.1, { s with ppu := r.2 })) ∧
      (readDataPort s.session s.ppu = none → memRead a s = .fault (.invalidAddressSpace s.ppu.addr s)) ∧
      (∀ u, writeDataPort s.session v s.ppu = some u → memWrite a v s = .next { s with ppu := u }) ∧
      (writeDataPort s.session v s.ppu = none → memWrite a v s = .fault (.invalidAddressSpace s.ppu.addr s)) := by
  simp +contextual [memRead, memWrite, peek, h, State.setPpu]

end

/-! ## Peek -/

theorem peekDataPort_of_latchFaults (k : Session) {u : Ppu} (h : latchFaults u = true) :
    peekDataPort k u = 0x00#8 := by
  obtain hr | hr := (latchFaults_iff u).mp h <;> simp only [peekDataPort, hr]

/-- Peek of an address whose read is refused or faults. -/
theorem peek_of_not_readable {s : State} {a : Word} (h : readable s a = false) : peek s a = 0x00#8 := by
  unfold readable at h
  unfold peek
  cases hr : route s.session a <;> simp only [hr] at h ⊢
  case ram => cases h
  case prg => cases h
  case dataPort => exact peekDataPort_of_latchFaults _ (by simpa using h)

theorem join_eq_mul_add (h l : Byte) : join h l = h.setWidth 16 * 256#16 + l.setWidth 16 := by
  have := h.isLt
  have := l.isLt
  apply BitVec.eq_of_toNat_eq
  rw [join_toNat, BitVec.toNat_add, BitVec.toNat_mul]
  simp only [BitVec.toNat_setWidth, BitVec.toNat_ofNat]
  omega

/-- A store to a RAM cell is seen at the addresses of that cell, and at no other (R53). -/
theorem memWrite_ram_peek {s : State} (hwf : Memory.wf s.ram = true) {a : Word} {n : Nat}
    (h : route s.session a = .ram n) (v : Byte) :
    ∃ t, memWrite a v s = .next t ∧ t.session = s.session ∧ Memory.wf t.ram = true ∧
      ∀ b, peek t b = if route s.session b = .ram n then v else peek s b := by
  refine ⟨_, memWrite_ram h, rfl, Memory.write_wf hwf n v, fun b => ?_⟩
  unfold peek
  rw [setRam_session]
  cases hb : route s.session b with
  | ram m => simp [Memory.read_write hwf]
  | _ => simp

/-! ## Words -/

/-- Under both maps a RAM cell and its addresses agree mod 2048, the size of the smaller RAM. -/
theorem route_ram_mod {k : Session} {a : Word} {n : Nat} (h : route k a = .ram n) : n % 2048 = a.toNat % 2048 := by
  cases hb : k.bus with
  | flat => rw [route_flat hb] at h; cases h; rfl
  | nes =>
    simp only [route, hb, Config.nesRamSize, nesPort_eq] at h
    split_ifs at h
    cases h
    exact Nat.mod_mod _ _

/-- Adjacent addresses in RAM have different cells, also across the ends of a mirror and of the address space. -/
theorem route_succ_ram_ne {k : Session} {a : Word} {m n : Nat} (hm : route k a = .ram m)
    (hn : route k (a + 1#16) = .ram n) : m ≠ n := by
  have h1 := route_ram_mod hm
  have h2 := route_ram_mod hn
  rw [BitVec.toNat_add] at h2
  simp only [BitVec.toNat_ofNat] at h2
  omega

theorem plain_ram {s : State} {a : Word} {n : Nat} (h : route s.session a = .ram n) : plain s a = true := by
  simp only [plain, h]

/-- A word written at two RAM addresses stands there, low half first: the second store leaves the first byte alone. -/
theorem memWrite16_ram_peek {s : State} (hwf : Memory.wf s.ram = true) {a : Word} {m n : Nat}
    (hm : route s.session a = .ram m) (hn : route s.session (a + 1#16) = .ram n) (w : Word) :
    ∃ t, memWrite16 a w s = .next t ∧ t.session = s.session ∧ peek t a = lo w ∧ peek t (a + 1#16) = hi w := by
  have hne : m ≠ n := route_succ_ram_ne hm hn
  obtain ⟨u, hu, husession, huwf, hupeek⟩ := memWrite_ram_peek hwf hm (lo w)
  rw [← husession] at hn
  obtain ⟨t, ht, htsession, -, htpeek⟩ := memWrite_ram_peek huwf hn (hi w)
  refine ⟨t, by rw [memWrite16, hu, chain_next, ht], htsession.trans husession, ?_, ?_⟩
  · rw [htpeek, husession, hm, if_neg (by simpa using hne), hupeek, if_pos hm]
  · rw [htpeek, if_pos hn]

end Sys2Proof.Machine

/-! # Runs under `FlatBus`, and the instructions that write no memory (spec/20_memory.md R47, R48, R55) -/

namespace Sys2Proof.Machine
open Sys2Proof.Safety

/-! ## `FlatBus` -/

/-- Assembly of the fetched bytes reads nothing: it answers an instruction or stops at the byte. -/
theorem fetched_eq (op b1 b2 : Byte) (s : State) :
    (∃ i, fetched op b1 b2 s = .next (i, s)) ∨ fetched op b1 b2 s = .fault (.invalidOpcode s.cpu.pc op s) := by
  unfold fetched
  split
  · exact .inl ⟨_, rfl⟩
  · exact .inr rfl

section
variable {s : State} (hflat : s.session.bus = .flat)
include hflat

theorem memRead_flat (a : Word) : memRead a s = .next (Memory.read s.ram a.toNat, s) :=
  memRead_ram (route_flat hflat a)

theorem readable_flat (a : Word) : readable s a = true := by simp only [readable, route_flat hflat]

theorem writable_flat (a : Word) : writable s a = true := by simp only [writable, route_flat hflat]

theorem afterRead_flat (a : Word) : afterRead s a = s := by simp only [afterRead, route_flat hflat]

theorem afterWrite_flat_ppu (a : Word) (v : Byte) : (afterWrite s a v).ppu = s.ppu := by
  simp only [afterWrite, route_flat hflat, setRam_ppu]

theorem operandReadable_flat (op : Operand) : operandReadable op s = true := by
  cases op <;> simp only [operandReadable, readable_flat hflat]

theorem operandModifiable_flat (op : Operand) : operandModifiable op s = true := by
  simp only [operandModifiable, readable_flat hflat, afterRead_flat hflat, writable_flat hflat, Bool.and_self]

/-- No address reaches a port, so no run touches the PPU block. -/
theorem Runs.ppu_flat {regs : List Reg} {flags : List Flag} {t : State} (h : Runs regs flags s t) :
    t.ppu = s.ppu := by
  have hbus : ∀ {u : State}, Runs regs flags s u → u.session.bus = .flat := by
    intro u hu
    obtain ⟨-, hsession, -⟩ := hu.restKept
    rw [hsession, hflat]
  induction h with
  | refl => rfl
  | read a ht ih => rw [afterRead_flat (hbus ht), ih]
  | write a v ht ih => rw [afterWrite_flat_ppu (hbus ht), ih]
  | @setReg t r v _ _ ih => obtain ⟨-, -, -, hppu, -⟩ := setReg_fields t v r; rw [hppu, ih]
  | setP _ _ ih => exact ih
  | setPc _ _ ih => exact ih

/-- The bus is all that can stop an instruction, and `FlatBus` answers every access. -/
theorem Shape.run_flat (k : Shape) : ∃ t, k.run s = .next t := by
  cases k with
  | load r op => exact ⟨_, load_eq_next.mpr ⟨operandReadable_flat hflat op, rfl⟩⟩
  | store r op => exact ⟨_, store_eq_next.mpr ⟨writable_flat hflat _, rfl⟩⟩
  | alu k op => exact ⟨_, accumulate_eq_next.mpr ⟨operandReadable_flat hflat op, rfl⟩⟩
  | test k op => exact ⟨_, examine_eq_next.mpr ⟨operandReadable_flat hflat op, rfl⟩⟩
  | memory k op => exact ⟨_, modify_eq_next.mpr ⟨operandModifiable_flat hflat op, rfl⟩⟩
  | branch k b => rw [run, Machine.branch]; split <;> exact ⟨_, rfl⟩
  | jumpVia w =>
    exact ⟨_, by rw [run, execJmpInd, memRead_flat hflat, chain_next, memRead_flat hflat, chain_next]⟩
  | brk => exact ⟨_, enter_eq _ _ s (by decide) (by decide)⟩
  | call | pha | php =>
    simp only [run, execJsr, execPha, execPhp, pushWord_eq, push_eq, chain_next]
    exact ⟨_, rfl⟩
  | ret | rti | pla | plp =>
    simp only [run, execRts, execRti, execPla, execPlp, returnFromInterrupt, pullWord_eq, pull_eq, chain_next]
    exact ⟨_, rfl⟩
  | accumulator | count | move | txs | nop | flag | jump => exact ⟨_, rfl⟩

/-- The fetch reads without effect; the one way it stops is a byte without an entry. -/
theorem fetch_flat :
    (∃ i, fetch s = .next (i, s)) ∨ ∃ op, fetch s = .fault (.invalidOpcode s.cpu.pc op s) := by
  rw [fetch, fetchOpcode, memRead_flat hflat, chain_next]
  split
  · exact .inr ⟨_, rfl⟩
  · simp only [fetchOperands, memRead_flat hflat, chain_next]
    split_ifs <;> exact (fetched_eq _ _ _ s).imp_right fun h => ⟨_, h⟩

end

/-- A step under `FlatBus`: reset and interrupt entry always answer, a fetched instruction completes. -/
theorem step_flat {s : State} (hflat : s.session.bus = .flat) :
    (∃ t, step s = .next t) ∨ ∃ pc op left, step s = .fault (.invalidOpcode pc op left) := by
  unfold step
  split
  · exact .inl ⟨_, by rw [hostReset, memRead16_high _ (by decide) (by decide), chain_next]⟩
  · exact .inl ⟨_, enter_eq _ _ _ (by decide) (by decide)⟩
  · exact .inl ⟨_, enter_eq _ _ _ (by decide) (by decide)⟩
  · have hpass : (passBoundary s).session.bus = .flat := hflat
    obtain ⟨i, hi⟩ | ⟨op, hop⟩ := fetch_flat hpass
    · obtain ⟨t, ht⟩ := Shape.run_flat hpass (shapeOf i)
      exact .inl ⟨t, by rw [hi, chain_next, exec_eq_run, ht]; rfl⟩
    · exact .inr ⟨_, _, _, by rw [hop, chain_fault]; rfl⟩

/-! ## What only stores, read-modify-writes and pushes write -/

/-- The memories and the PPU registers that no bus read changes. -/
def State.storage (s : State) : Memory × Memory × Memory × Byte × Bool :=
  (s.ram, s.ppu.vram, s.ppu.palette, s.ppu.ctrl, s.ppu.hiNext)

theorem storage_eq_iff {s t : State} : t.storage = s.storage ↔
    t.ram = s.ram ∧ t.ppu.vram = s.ppu.vram ∧ t.ppu.palette = s.ppu.palette ∧ t.ppu.ctrl = s.ppu.ctrl ∧
      t.ppu.hiNext = s.ppu.hiNext := by
  simp only [State.storage, Prod.mk.injEq]

section
variable (s : State)

@[simp] theorem storage_setReg (r : Reg) (v : Byte) : (s.setReg r v).storage = s.storage := by cases r <;> rfl
@[simp] theorem storage_setP (p : Byte) : (s.setP p).storage = s.storage := rfl
@[simp] theorem storage_setPc (w : Word) : (s.setPc w).storage = s.storage := rfl
@[simp] theorem storage_advance (n : Nat) : (s.advance n).storage = s.storage := rfl
@[simp] theorem storage_setFlag (f : Flag) (b : Bool) : (s.setFlag f b).storage = s.storage := rfl

@[simp] theorem storage_afterRead (a : Word) : (afterRead s a).storage = s.storage := by simp [State.storage]

@[simp] theorem storage_operandAfter (op : Operand) : (operandAfter op s).storage = s.storage := by
  obtain h | h := operandAfter_eq op s <;> rw [h]
  exact storage_afterRead s _

end

/-- A shape whose mnemonic writes no memory makes no bus write. -/
theorem Shape.run_storage {k : Shape} {s t : State} (h : k.run s = .next t) (hk : k.mnemonic ∉ memoryWriters) :
    t.storage = s.storage := by
  cases k with
  | load r op => obtain ⟨-, rfl⟩ := load_eq_next.mp h; simp
  | alu k op => obtain ⟨-, rfl⟩ := accumulate_eq_next.mp h; simp
  | test k op => obtain ⟨-, rfl⟩ := examine_eq_next.mp h; simp
  | count | move | txs | nop | flag | jump =>
    cases h
    simp
  | branch k b =>
    rw [run, Machine.branch] at h
    split at h <;> cases h <;> simp
  | jumpVia w =>
    obtain ⟨l, hl, h⟩ := chain_eq_next.mp h
    obtain ⟨m, hm, h⟩ := chain_eq_next.mp h
    obtain ⟨-, rfl⟩ := memRead_eq_next hl
    obtain ⟨-, rfl⟩ := memRead_eq_next hm
    cases h
    simp
  | ret | rti | pla | plp =>
    simp only [run, execRts, execRti, execPla, execPlp, returnFromInterrupt, pullWord_eq, pull_eq, chain_next] at h
    cases h
    simp
  | store r _ => cases r <;> simp [mnemonic, memoryWriters] at hk
  | memory k _ => cases k <;> simp [mnemonic, memoryWriters] at hk
  | accumulator k => cases k <;> simp [mnemonic, memoryWriters] at hk
  | call | brk | pha | php => simp [mnemonic, memoryWriters] at hk

end Sys2Proof.Machine

/-! # The settled statements about memory and the bus (spec/20_memory.md) -/

namespace Sys2Proof.Proofs
open Sys2Proof Sys2Proof.Machine Sys2Proof.Safety

/-- Settles O14. A read answers exactly at the readable addresses, and there with what `Peek` shows; elsewhere `Peek` is
0x00. -/
theorem peekIsWhatAReadReturns : Obligations.PeekIsWhatAReadReturns := by
  intro s a
  refine ⟨memRead_eq_of_readable, fun h => ⟨peek_of_not_readable h, fun r hr => ?_⟩, afterRead_plain,
    join_eq_mul_add _ _⟩
  rw [(memRead_eq_next hr).1] at h
  cases h

/-- Settles O15: every address is routed to its own RAM cell. -/
theorem flatBusIsRam : Obligations.FlatBusIsRam :=
  ⟨fun k _ _ image => read_freshState_ram k image, fun _ a v hflat => bus_ram v (route_flat hflat a)⟩

/-- Settles O16: each range has one target, and each target its read, write and peek. -/
theorem nesBusFollowsItsMap : Obligations.NesBusFollowsItsMap := by
  refine ⟨fun k _ _ image => read_freshState_ram k image, fun s a v hnes =>
    ⟨fun h => bus_ram v (route_nes_ram hnes h), fun h h' => ?ports,
      fun h h' => bus_unmapped v (route_nes_unmapped hnes h h'), fun h => bus_prg v (route_nes_prg hnes h)⟩⟩
  case ports =>
    have hport : route s.session a = _ := (route_nes_port hnes h h').trans (nesPort_eq a)
    refine ⟨fun h0 => bus_controlPort v ?_, fun h6 => bus_addressPort v ?_, fun h7 => bus_dataPort v ?_,
      fun hrest => bus_ppuRegister v ?_⟩
    · simp [hport, h0]
    · simp [hport, h6]
    · simp [hport, h7]
    · simp only [List.mem_cons, List.not_mem_nil, or_false] at hrest
      rw [hport, if_neg (by omega), if_neg (by omega), if_neg (by omega)]

/-- Settles O17: the store writes one RAM cell, and `Peek` of an address sees the one cell it is routed to. -/
theorem storeIsSeenThroughEveryMirror : Obligations.StoreIsSeenThroughEveryMirror := by
  intro s t a b v n hwf hr h
  obtain ⟨u, hu, -, -, hpeek⟩ := memWrite_ram_peek hwf hr v
  rw [hu] at h
  cases h
  exact hpeek b

/-- Settles O18. The halves of a word are its quotient and remainder by 256; a word written to RAM lands in two
different cells, so the second store leaves the first byte alone. -/
theorem wordAccessIsLittleEndian : Obligations.WordAccessIsLittleEndian := by
  refine ⟨fun s a ha hb => ?_, fun s a w l h ha hb hw => ?_, fun s a w m n hwf hm hn => ?_⟩
  · refine ⟨_, ?_, join_toNat _ _⟩
    rw [memRead16, memRead_eq_of_readable ha, chain_next, memRead_eq_of_readable hb, chain_next]
  · have hlo : lo w = l := BitVec.eq_of_toNat_eq (by have := l.isLt; rw [lo_toNat]; omega)
    have hhi : hi w = h := BitVec.eq_of_toNat_eq (by have := l.isLt; rw [hi_toNat]; omega)
    rw [memWrite16, hlo, hhi, memWrite_of_writable ha, chain_next, memWrite_of_writable hb]
  · obtain ⟨t, ht, hsession, hlo, hhi⟩ := memWrite16_ram_peek hwf hm hn w
    have hplain : ∀ b, plain s b = true → plain t b = true := fun b hb => (plain_congr b hsession).trans hb
    refine ⟨t, ht, ?_, by rw [hlo, lo_toNat], by rw [hhi, hi_toNat]⟩
    rw [memRead16_plain (hplain _ (plain_ram hm)) (hplain _ (plain_ram hn)), peek16, hlo, hhi, join_hi_lo]

/-- Settles O55: `FlatBus` answers every access, and no address of it is a port. -/
theorem flatBusRunsEveryInstruction : Obligations.FlatBusRunsEveryInstruction := by
  intro s hflat
  refine ⟨fun i => ?_, step_flat hflat⟩
  obtain ⟨t, ht⟩ := Shape.run_flat hflat (shapeOf i)
  rw [← exec_eq_run] at ht
  exact ⟨t, ht, (exec_runs ht).ppu_flat hflat⟩

/-- Settles O58: the shapes of the other mnemonics make no bus write. -/
theorem otherInstructionsWriteNoMemory : Obligations.OtherInstructionsWriteNoMemory := by
  intro i s t m h hm hw
  rw [mnemonicOf_eq, Option.some_inj] at hm
  subst hm
  obtain ⟨hram, hvram, hpalette, hctrl, htoggle⟩ :=
    storage_eq_iff.mp (Shape.run_storage (exec_eq_run i s ▸ h) hw)
  exact ⟨hram, hvram, hpalette, hctrl, htoggle, (exec_runs h).ppu_flat⟩

end Sys2Proof.Proofs

/-! # Every instruction has a well-formed entry of the length of its encoding (spec/30_encoding.md R71, R73, R75) -/

namespace Sys2Proof.Laws.EntryWf

/-- The family, put together over the constructors. -/
theorem holds (i : Instr) : Statement i :=
  Instr.rec (motive := Statement)
    brk oraIzx oraZp aslZp php oraImm aslAcc oraAbs aslAbs bpl oraIzy oraZpx aslZpx clc oraAby oraAbx aslAbx jsr
    andIzx bitZp andZp rolZp plp andImm rolAcc bitAbs andAbs rolAbs bmi andIzy andZpx rolZpx sec andAby andAbx
    rolAbx rti eorIzx eorZp lsrZp pha eorImm lsrAcc jmpAbs eorAbs lsrAbs bvc eorIzy eorZpx lsrZpx cli eorAby eorAbx
    lsrAbx rts adcIzx adcZp rorZp pla adcImm rorAcc jmpInd adcAbs rorAbs bvs adcIzy adcZpx rorZpx sei adcAby adcAbx
    rorAbx staIzx styZp staZp stxZp dey txa styAbs staAbs stxAbs bcc staIzy styZpx staZpx stxZpy tya staAby txs
    staAbx ldyImm ldaIzx ldxImm ldyZp ldaZp ldxZp tay ldaImm tax ldyAbs ldaAbs ldxAbs bcs ldaIzy ldyZpx ldaZpx
    ldxZpy clv ldaAby tsx ldyAbx ldaAbx ldxAby cpyImm cmpIzx cpyZp cmpZp decZp iny cmpImm dex cpyAbs cmpAbs decAbs
    bne cmpIzy cmpZpx decZpx cld cmpAby cmpAbx decAbx cpxImm sbcIzx cpxZp sbcZp incZp inx sbcImm nop cpxAbs sbcAbs
    incAbs beq sbcIzy sbcZpx incZpx sed sbcAby sbcAbx incAbx i

end Sys2Proof.Laws.EntryWf

/-! # The table, the decoder and the encoder (spec/30_encoding.md R70 to R77) -/

namespace Sys2Proof
open Sys2Proof.Machine Sys2Proof.Safety

/-! ## The encoding of an instruction, against the table and the assembly -/

/-- A well-formed entry has length 1, 2 or 3 (R73). -/
theorem MetaEntry.len_bounds {e : MetaEntry} (h : e.wf = true) : 0 < e.len ∧ e.len ≤ 3 := by
  simp only [MetaEntry.wf, MetaEntry.lenOk, Bool.and_eq_true, Bool.or_eq_true, beq_iff_eq] at h
  omega

theorem encode_eq_opcode_cons (i : Instr) : encode i = i.opcode :: (encode i).tail := by
  obtain ⟨e, -, hwf, hlen⟩ := Laws.EntryWf.holds i
  have hpos := (MetaEntry.len_bounds hwf).1
  unfold Instr.opcode
  match hcode : encode i with
  | [] => rw [hcode, List.length_nil] at hlen; omega
  | _ :: _ => rfl

/-- The operand of an instruction is read back from its operand bytes; a form without such a byte ignores it. -/
theorem assemble_encode (i : Instr) :
    assemble i.opcode ((encode i).tail.getD 0 0#8) ((encode i).tail.getD 1 0#8) = some i := by
  cases i
  all_goals
    simp only [Instr.opcode, encode, List.headD_cons, List.tail_cons, List.getD_nil, List.getD_cons_zero,
      List.getD_cons_succ]
    exact Eq.trans (b := some _) rfl (congrArg some (by simp only [join_hi_lo]))

/-- Row by row: what the opcode byte assembles with any two bytes is encoded by as many of the three as the row's
length. -/
theorem encode_assembled_row (b1 b2 : Byte) :
    ∀ row ∈ metaTable, ∃ i, assemble row.1 b1 b2 = some i ∧ encode i = [row.1, b1, b2].take row.2.len := by
  rw [← List.forall_iff_forall_mem]
  and_intros <;> exact ⟨_, rfl, by simp only [encode, lo_join, hi_join, List.take_succ_cons, List.take_zero]⟩

theorem mem_metaTable_of_metaOf {op : Byte} {e : MetaEntry} (h : metaOf op = some e) : (op, e) ∈ metaTable := by
  obtain ⟨⟨key, entry⟩, hfind, rfl⟩ := Option.map_eq_some_iff.mp h
  have hkey : key = op := by simpa using List.find?_some hfind
  exact hkey ▸ List.mem_of_find?_eq_some hfind

/-- An instruction assembled from an operand of the entry's length has that operand in its encoding. -/
theorem encode_of_assemble {op : Byte} {e : MetaEntry} {operand : List Byte} {i : Instr} (he : metaOf op = some e)
    (hlen : operand.length + 1 = e.len) (hle : operand.length ≤ 2)
    (hi : assemble op (operand.getD 0 0#8) (operand.getD 1 0#8) = some i) : encode i = op :: operand := by
  obtain ⟨j, hj, hcode⟩ :=
    encode_assembled_row (operand.getD 0 0#8) (operand.getD 1 0#8) _ (mem_metaTable_of_metaOf he)
  obtain rfl : i = j := Option.some.inj (hi.symm.trans hj)
  rw [hcode, ← hlen]
  match operand, hle with
  | [], _ => rfl
  | [_], _ => rfl
  | [_, _], _ => rfl

/-! ## What the decoder can do -/

theorem decode_unassigned {op : Byte} (h : metaOf op = none) (rest : List Byte) :
    decode (op :: rest) = .error (.unassigned op) := by
  simp only [decode, h]

theorem decodeAs_eq_ok {op b1 b2 : Byte} {tail rest : List Byte} {i : Instr} :
    decodeAs op b1 b2 tail = .ok (i, rest) ↔ assemble op b1 b2 = some i ∧ tail = rest := by
  unfold decodeAs
  cases assemble op b1 b2 <;> simp

/-- The decoder answers exactly when the first byte has an entry, as many operand bytes follow as its length says, at
most two, and they assemble to the instruction; what is left is what follows them. -/
theorem decode_eq_ok {bytes rest : List Byte} {i : Instr} :
    decode bytes = .ok (i, rest) ↔
      ∃ op e operand, metaOf op = some e ∧ operand.length + 1 = e.len ∧ operand.length ≤ 2 ∧
        assemble op (operand.getD 0 0#8) (operand.getD 1 0#8) = some i ∧ bytes = op :: operand ++ rest := by
  constructor
  · intro h
    unfold decode at h
    split at h
    · cases h
    · next op tail =>
      split at h
      · cases h
      · next e he =>
        split at h
        · next hlen =>
          obtain ⟨hi, rfl⟩ := decodeAs_eq_ok.mp h
          exact ⟨op, e, [], he, hlen.symm, Nat.zero_le 2, hi, rfl⟩
        · next b1 tail hlen =>
          obtain ⟨hi, rfl⟩ := decodeAs_eq_ok.mp h
          exact ⟨op, e, [b1], he, hlen.symm, Nat.le_succ 1, hi, rfl⟩
        · next b1 b2 tail hlen =>
          obtain ⟨hi, rfl⟩ := decodeAs_eq_ok.mp h
          exact ⟨op, e, [b1, b2], he, hlen.symm, Nat.le_refl 2, hi, rfl⟩
        · cases h
  · rintro ⟨op, e, operand, he, hlen, hle, hi, rfl⟩
    have hok := decodeAs_eq_ok.mpr ⟨hi, rfl (a := rest)⟩
    match operand, hle with
    | [], _ => simpa [decode, he, ← hlen] using hok
    | [_], _ => simpa [decode, he, ← hlen] using hok
    | [_, _], _ => simpa [decode, he, ← hlen] using hok

/-! ## The bytes without an entry -/

/-- The opcode bytes of the table, in its order. -/
def opcodeBytes : List Byte := metaTable.map Prod.fst

theorem metaOf_eq_none {op : Byte} : metaOf op = none ↔ op ∉ opcodeBytes := by
  rw [metaOf, Option.map_eq_none_iff, List.find?_eq_none]
  constructor
  · intro h hmem
    obtain ⟨row, hrow, rfl⟩ := List.mem_map.mp hmem
    exact h row hrow (beq_self_eq_true _)
  · intro h row hrow hkey
    exact h (List.mem_map.mpr ⟨row, hrow, beq_iff_eq.mp hkey⟩)

/-- The 16 bytes whose high digit is `page`. -/
def pageBytes (page : Nat) : List Byte := (List.range 16).map fun low => BitVec.ofNat 8 (16 * page + low)

theorem mem_pageBytes (op : Byte) : op ∈ pageBytes (op.toNat / 16) := by
  refine List.mem_map.mpr ⟨op.toNat % 16, by simp; omega, ?_⟩
  rw [Nat.div_add_mod, BitVec.ofNat_toNat, BitVec.setWidth_eq]

theorem nodup_pageBytes (page : Nat) : (pageBytes page).Nodup := by
  refine List.Nodup.map_on (fun a ha b hb hab => ?_) List.nodup_range
  rw [List.mem_range] at ha hb
  have htoNat := congrArg BitVec.toNat hab
  simp only [BitVec.toNat_ofNat] at htoNat
  omega

/-- Page by page, the table and the list of R77 share out the bytes: each byte stands in one of the two, once. -/
theorem page_shared_out : ∀ page < 16,
    ((opcodeBytes ++ unassignedBytes).filter (fun op => op.toNat / 16 == page)).Perm (pageBytes page) := by
  decide

/-- The list of R77 is the complement of the table. -/
theorem mem_unassignedBytes {op : Byte} : op ∈ unassignedBytes ↔ op ∉ opcodeBytes := by
  have hperm := page_shared_out (op.toNat / 16) (by omega)
  have hop : op ∈ opcodeBytes ∨ op ∈ unassignedBytes := by
    simpa using hperm.mem_iff.mpr (mem_pageBytes op)
  have hnodup := hperm.nodup_iff.mpr (nodup_pageBytes _)
  rw [List.filter_append] at hnodup
  have hnot : op ∈ opcodeBytes → op ∉ unassignedBytes := fun ho hu =>
    List.disjoint_of_nodup_append hnodup (List.mem_filter.mpr ⟨ho, by simp⟩) (List.mem_filter.mpr ⟨hu, by simp⟩)
  exact ⟨fun hu ho => hnot ho hu, hop.resolve_left⟩

end Sys2Proof

/-! # Fetching a byte without an entry (spec/41_execution_loop.md R113, R114) -/

namespace Sys2Proof.Machine
open Sys2Proof.Safety

/-- Abandoning a step that stopped at an unknown byte changes nothing: no register has been written yet. -/
theorem abandon_invalidOpcode {cpu : Cpu} {pc : Word} {op : Byte} {left : State} (h : left.cpu = cpu) :
    abandon cpu (.fault (.invalidOpcode pc op left)) = .fault (.invalidOpcode pc op left) := by
  subst h
  rfl

section
variable {s : State} (hread : readable s s.cpu.pc = true)
include hread

theorem fetchOpcode_of_readable : fetchOpcode s = .next (peek s s.cpu.pc, afterRead s s.cpu.pc) :=
  memRead_eq_of_readable hread

/-- The fetch of a byte without an entry reads that byte alone, and stops. -/
theorem fetch_unassigned (hop : metaOf (peek s s.cpu.pc) = none) :
    fetch s = .fault (.invalidOpcode s.cpu.pc (peek s s.cpu.pc) (afterRead s s.cpu.pc)) := by
  rw [fetch, fetchOpcode_of_readable hread, chain_next]
  simp only [hop]

theorem instructionHookCall_unassigned (hop : metaOf (peek s s.cpu.pc) = none) : instructionHookCall s = none := by
  simp only [instructionHookCall, fetchOpcode_of_readable hread, hop, Option.map_none]

end

end Sys2Proof.Machine

/-! # The settled statements about the encoding (spec/30_encoding.md) -/

namespace Sys2Proof.Proofs
open Sys2Proof Sys2Proof.Machine Sys2Proof.Safety

/-- Settles O1: the encoding is the opcode byte and as many operand bytes as the entry says, and these assemble to the
instruction. -/
theorem decodeInvertsEncode : Obligations.DecodeInvertsEncode := by
  intro i rest
  obtain ⟨e, he, hwf, hlen⟩ := Laws.EntryWf.holds i
  have hcons := encode_eq_opcode_cons i
  have hlen' : (encode i).tail.length + 1 = e.len := by rw [← hlen, hcons]; rfl
  have hle := (MetaEntry.len_bounds hwf).2
  exact decode_eq_ok.mpr
    ⟨i.opcode, e, (encode i).tail, he, hlen', by omega, assemble_encode i, by rw [← hcons]⟩

/-- Settles O2: what the decoder assembles is encoded by the bytes it took. -/
theorem encodeInvertsDecode : Obligations.EncodeInvertsDecode := by
  intro bytes i rest h
  obtain ⟨op, e, operand, he, hlen, hle, hi, rfl⟩ := decode_eq_ok.mp h
  rw [encode_of_assemble he hlen hle hi]

/-- Settles O3: the listed bytes are the complement of the table, and the fetch of one reads that byte alone
and stops. -/
theorem unassignedBytesAreInvalidOpcodes : Obligations.UnassignedBytesAreInvalidOpcodes := by
  intro op
  have hnone : metaOf op = none ↔ op ∈ unassignedBytes := metaOf_eq_none.trans mem_unassignedBytes.symm
  refine ⟨hnone, fun hop => ⟨decode_unassigned (hnone.mpr hop), fun s hdue hread hpeek => ?_⟩⟩
  subst hpeek
  have hfetch := fetch_unassigned (s := passBoundary s) hread (hnone.mpr hop)
  have hhook := instructionHookCall_unassigned (s := passBoundary s) hread (hnone.mpr hop)
  refine ⟨?_, by simp only [hookCall, hdue, hhook]⟩
  simp only [step, hdue, hfetch, chain_fault]
  exact abandon_invalidOpcode (afterRead_cpu _ _)

/-- Settles O4: the decoder is run on each word. -/
theorem sampleWordsDecode : Obligations.SampleWordsDecode := by
  unfold Obligations.SampleWordsDecode
  decide

end Sys2Proof.Proofs

/-! # The effective address, from the operand bytes at a location (spec/40_addressing.md) -/

namespace Sys2Proof

/-- How many operand bytes the resolver reads (R103). -/
def Mode.operandReads (mode : Mode) : Nat :=
  match mode with
  | .immediate | .none => 0
  | .zeroPage | .zeroPageX | .zeroPageY | .indirectX | .indirectY => 1
  | .absolute | .absoluteX | .absoluteY => 2

theorem Mode.ne_immediate_of_reads {mode : Mode} {n : Nat} (h : mode.operandReads = n + 1) : mode ≠ .immediate := by
  rintro rfl
  cases h

end Sys2Proof

namespace Sys2Proof.Machine
open Sys2Proof.Safety

/-! ## What a bus read leaves of an address -/

/-- The pointer stands in page zero, which is RAM, and a bus read changes no RAM. -/
@[simp] theorem zpPtrBy_afterRead (s : State) (a : Word) (p : Byte) :
    zpPtrBy (peek (afterRead s a)) p = zpPtrBy (peek s) p := by
  have hpeek : ∀ b : Byte, peek (afterRead s a) (zext b) = peek s (zext b) := fun b =>
    peek_congr (plain_ram (route_zext s.session b)) (afterRead_session s a) (afterRead_ram s a)
  rw [zpPtrBy, zpPtrBy, hpeek, hpeek]

/-- The address of an operand depends on the registers and on page zero alone. -/
@[simp] theorem peekAddress_afterRead (op : Operand) (s : State) (a : Word) :
    peekAddress op (afterRead s a) = peekAddress op s := by
  cases op <;> simp only [peekAddress, addressBy, afterRead_cpu, zpPtrBy_afterRead]

/-! ## The reads of the operand bytes -/

theorem memRead16_of_readable {a : Word} {s : State} (ha : readable s a = true)
    (hb : readable (afterRead s a) (a + 1#16) = true) :
    memRead16 a s =
      .next (join (peek (afterRead s a) (a + 1#16)) (peek s a), afterRead (afterRead s a) (a + 1#16)) := by
  rw [memRead16, memRead_eq_of_readable ha, chain_next, memRead_eq_of_readable hb, chain_next]

section
variable {mode : Mode} {loc : Word} {s : State} (hloc : readable s loc = true)
include hloc

theorem readOperandBytes_of_one (hone : mode.operandReads = 1) :
    readOperandBytes mode loc s = .next (operandOf mode (peek s loc) 0x00#8, afterRead s loc) := by
  cases mode with
  | zeroPage | zeroPageX | zeroPageY | indirectX | indirectY =>
    rw [readOperandBytes, memRead_eq_of_readable hloc, chain_next]
  | immediate | none | absolute | absoluteX | absoluteY => cases hone

theorem readOperandBytes_of_two (hnext : readable (afterRead s loc) (loc + 1#16) = true)
    (htwo : mode.operandReads = 2) :
    readOperandBytes mode loc s = .next (operandOf mode (peek s loc) (peek (afterRead s loc) (loc + 1#16)),
      afterRead (afterRead s loc) (loc + 1#16)) := by
  cases mode with
  | absolute | absoluteX | absoluteY =>
    rw [readOperandBytes, memRead16_of_readable hloc hnext, chain_next, lo_join, hi_join]
  | immediate | none | zeroPage | zeroPageX | zeroPageY | indirectX | indirectY => cases htwo

end

/-! ## The address -/

/-- Where the operand bytes were read, the resolver answers the address the tracer shows, with no further effect. -/
theorem effectiveAddress_of_operand {mode : Mode} {loc : Word} {s t : State} {op : Operand}
    (hmode : mode ≠ .immediate) (hread : readOperandBytes mode loc s = .next (some op, t)) :
    effectiveAddress mode loc s = .next (some (peekAddress op t), t) := by
  rw [effectiveAddress, hread, chain_next]
  simp only [resolve_eq, chain_next, if_neg hmode]

section
variable {mode : Mode} {loc : Word} {s : State} (op : Operand) (hloc : readable s loc = true)
include hloc

/-- The modes of one operand byte (R92 to R94, R99, R100). -/
theorem effectiveAddress_of_one (hone : mode.operandReads = 1)
    (hop : operandOf mode (peek s loc) 0x00#8 = some op) :
    effectiveAddress mode loc s = .next (some (peekAddress op s), afterRead s loc) := by
  rw [effectiveAddress_of_operand (Mode.ne_immediate_of_reads hone)
    ((readOperandBytes_of_one hloc hone).trans (by rw [hop])), peekAddress_afterRead]

/-- The modes of two operand bytes (R95 to R97). -/
theorem effectiveAddress_of_two (hnext : readable (afterRead s loc) (loc + 1#16) = true)
    (htwo : mode.operandReads = 2)
    (hop : operandOf mode (peek s loc) (peek (afterRead s loc) (loc + 1#16)) = some op) :
    effectiveAddress mode loc s = .next (some (peekAddress op s), afterRead (afterRead s loc) (loc + 1#16)) := by
  rw [effectiveAddress_of_operand (Mode.ne_immediate_of_reads htwo)
    ((readOperandBytes_of_two hloc hnext htwo).trans (by rw [hop])), peekAddress_afterRead, peekAddress_afterRead]

end

end Sys2Proof.Machine

/-! # The settled statement about addressing (spec/40_addressing.md) -/

namespace Sys2Proof.Proofs
open Sys2Proof Sys2Proof.Machine Sys2Proof.Safety

/-- Settles O19: by the number of operand bytes a mode reads, its address is that of the operand they make, and each clause is
that address written out. -/
theorem effectiveAddressOfEveryMode : Obligations.EffectiveAddressOfEveryMode := by
  intro s loc
  refine ⟨rfl, rfl, ?one, ?two⟩
  case one =>
    intro hloc b u
    exact ⟨effectiveAddress_of_one (.zp b) hloc rfl rfl, effectiveAddress_of_one (.zpx b) hloc rfl rfl,
      effectiveAddress_of_one (.zpy b) hloc rfl rfl, effectiveAddress_of_one (.izx b) hloc rfl rfl,
      effectiveAddress_of_one (.izy b) hloc rfl rfl⟩
  case two =>
    intro hloc hnext base u
    exact ⟨effectiveAddress_of_two (.abs base) hloc hnext rfl rfl, effectiveAddress_of_two (.abx base) hloc hnext rfl rfl,
      effectiveAddress_of_two (.aby base) hloc hnext rfl rfl⟩

end Sys2Proof.Proofs

/-! # The execution loop (spec/41_execution_loop.md) -/

namespace Sys2Proof.Machine
open Sys2Proof.Safety

/-! ## The advance of `PC` (R117, R118) -/

@[simp] theorem setReg_cpu_pc (s : State) (r : Reg) (v : Byte) : (s.setReg r v).cpu.pc = s.cpu.pc :=
  (setReg_fields s v r).1

/-- A shape that is no control transfer ends with the advance by its length, and writes `PC` nowhere else. -/
theorem Shape.run_pc {k : Shape} {s t : State} (h : k.run s = .next t) (hk : k.mnemonic ∉ controlTransfers) :
    t.cpu.pc = s.cpu.pc + BitVec.ofNat 16 k.len := by
  cases k with
  | load r op => obtain ⟨-, rfl⟩ := load_eq_next.mp h; simp [len]
  | store r op => obtain ⟨-, rfl⟩ := store_eq_next.mp h; simp [len]
  | alu k op => obtain ⟨-, rfl⟩ := accumulate_eq_next.mp h; simp [len]
  | test k op => obtain ⟨-, rfl⟩ := examine_eq_next.mp h; simp [len]
  | memory k op => obtain ⟨-, rfl⟩ := modify_eq_next.mp h; simp [len]
  | accumulator | count | move | txs | nop | flag => cases h; simp [len]
  | pha | php | pla | plp =>
    simp only [run, execPha, execPhp, execPla, execPlp, push_eq, pull_eq, chain_next] at h
    cases h
    simp [len]
  | branch k b => cases k <;> simp [mnemonic, controlTransfers] at hk
  | jump | jumpVia | call | ret | rti | brk => simp [mnemonic, controlTransfers] at hk

/-! ## What a step that faults has done (R116) -/

theorem ReadsFrom.trans {s t u : State} (hst : ReadsFrom s t) (htu : ReadsFrom t u) : ReadsFrom s u := by
  induction htu with
  | refl => exact hst
  | read v a _ ih => exact ih.read v a

theorem ReadsFrom.single (s : State) (a : Word) : ReadsFrom s (afterRead s a) := .read s a .refl

/-- The one way an instruction faults: a data-port access with a latch that faults, after reads alone. No write precedes
it and no register has been written. -/
theorem Shape.run_eq_fault {k : Shape} {s : State} {f : Fault} (h : k.run s = .fault f) :
    ∃ t, ReadsFrom s t ∧ latchFaults t.ppu = true ∧ f = .invalidAddressSpace t.ppu.addr t := by
  cases k with
  | load r op => exact ⟨s, .refl, load_eq_fault h⟩
  | store r op => exact ⟨s, .refl, store_eq_fault h⟩
  | alu k op => exact ⟨s, .refl, accumulate_eq_fault h⟩
  | test k op => exact ⟨s, .refl, examine_eq_fault h⟩
  | memory k op =>
    obtain ⟨t, rfl | rfl, hfault⟩ := modify_eq_fault h
    · exact ⟨_, .refl, hfault⟩
    · exact ⟨_, .single s _, hfault⟩
  | jumpVia w =>
    obtain h | ⟨l, hl, h⟩ := chain_eq_fault.mp h
    · exact ⟨s, .refl, memRead_eq_fault h⟩
    obtain ⟨-, rfl⟩ := memRead_eq_next hl
    obtain h | ⟨_, _, h⟩ := chain_eq_fault.mp h
    · exact ⟨_, .single s w, memRead_eq_fault h⟩
    · cases h
  | branch k b =>
    rw [run, Machine.branch] at h
    split at h <;> cases h
  | brk =>
    rw [run, execBrk, enter_eq _ _ s (by decide) (by decide)] at h
    cases h
  | call | ret | rti | pha | php | pla | plp =>
    simp only [run, execJsr, execRts, execRti, execPha, execPhp, execPla, execPlp, returnFromInterrupt, pushWord_eq,
      pullWord_eq, push_eq, pull_eq, chain_next] at h
    cases h
  | accumulator | count | move | txs | nop | flag | jump => cases h

/-- Abandoning a step that faults before it has written a register changes nothing. -/
theorem abandon_fault {cpu : Cpu} {f : Fault} (h : (faultLeft f).cpu = cpu) : abandon cpu (.fault f) = .fault f := by
  subst h
  cases f <;> rfl

theorem abandon_eq_fault {cpu : Cpu} {o : Res State} {f : Fault} (h : abandon cpu o = .fault f) :
    ∃ g, o = .fault g ∧ abandon cpu (.fault g) = .fault f := by
  cases o with
  | next t => cases h
  | fault g => exact ⟨g, rfl, h⟩
  | refused r => cases h

/-- A stop with `f` after bus reads alone from `s`: at an access of the data port with a latch that faults, or at the fetch
of an unknown byte. -/
def StopsAfterReads (s : State) (f : Fault) : Prop :=
  ∃ t, ReadsFrom s t ∧ ((latchFaults t.ppu = true ∧ f = .invalidAddressSpace t.ppu.addr t) ∨
    ∃ op, metaOf op = none ∧ f = .invalidOpcode s.cpu.pc op t)

theorem StopsAfterReads.cpu {s : State} {f : Fault} (h : StopsAfterReads s f) : (faultLeft f).cpu = s.cpu := by
  obtain ⟨t, ht, ⟨-, rfl⟩ | ⟨op, -, rfl⟩⟩ := h <;> exact ht.kept.1

theorem fetch_exec_eq_fault {s : State} {f : Fault} (h : (chain (fetch s) fun r => exec r.1 r.2) = .fault f) :
    StopsAfterReads s f := by
  obtain hfetch | ⟨r, hr, hexec⟩ := chain_eq_fault.mp h
  · exact fetch_eq_fault hfetch
  · rw [exec_eq_run] at hexec
    obtain ⟨t, ht, hfault⟩ := Shape.run_eq_fault hexec
    exact ⟨t, (fetch_eq_next hr).trans ht, .inl hfault⟩

/-- A reset and an interrupt entry always answer, so a step that faults was fetching or executing; abandoning it changes
nothing, since no register has been written. -/
theorem step_eq_fault {s : State} {f : Fault} (h : step s = .fault f) : StopsAfterReads (passBoundary s) f := by
  unfold step at h
  split at h
  · rw [hostReset, memRead16_high _ (by decide) (by decide)] at h
    cases h
  · rw [takeNmi, takeInterrupt, enter_eq _ _ _ (by decide) (by decide)] at h
    cases h
  · rw [takeIrq, takeInterrupt, enter_eq _ _ _ (by decide) (by decide)] at h
    cases h
  · obtain ⟨g, hg, habandon⟩ := abandon_eq_fault h
    have hstop := fetch_exec_eq_fault hg
    rw [abandon_fault (cpu := s.cpu) hstop.cpu] at habandon
    cases habandon
    exact hstop

/-! ## The hook's call (R114) -/

theorem instructionHookCall_of_readable {s : State} (hread : readable s s.cpu.pc = true) :
    instructionHookCall s =
      (metaOf (peek s s.cpu.pc)).map (fun _ => hookView (peek s s.cpu.pc) (afterRead s s.cpu.pc)) := by
  simp only [instructionHookCall, fetchOpcode_of_readable hread]

theorem instructionHookCall_of_not_readable {s : State} (hread : readable s s.cpu.pc = false) :
    instructionHookCall s = none := by
  unfold instructionHookCall
  split
  · next r hr => rw [(memRead_eq_next hr).1] at hread; cases hread
  · rfl
  · rfl

/-- When the hook is called, and with what view (R114). -/
theorem hookCall_eq_some {s : State} {v : HookView} :
    hookCall s = some v ↔ (dueEvent s = .instruction ∧ readable s s.cpu.pc = true ∧
      (metaOf (peek s s.cpu.pc)).isSome = true) ∧
      v = hookView (peek s s.cpu.pc) (afterRead (passBoundary s) s.cpu.pc) := by
  unfold hookCall
  cases hdue : dueEvent s with
  | reset | nmi | irq => simp
  | instruction =>
    cases hread : readable s s.cpu.pc with
    | false => simp [instructionHookCall_of_not_readable (s := passBoundary s) hread]
    | true =>
      simp only [instructionHookCall_of_readable (s := passBoundary s) hread, Option.map_eq_some_iff,
        Option.isSome_iff_exists, true_and]
      exact ⟨fun ⟨e, he, hv⟩ => ⟨⟨e, he⟩, hv.symm⟩, fun ⟨⟨e, he⟩, hv⟩ => ⟨e, he, hv.symm⟩⟩

/-- `Peek` does not see the host's inputs. -/
theorem peek_afterRead_passBoundary (s : State) (a : Word) :
    peek (afterRead (passBoundary s) a) = peek (afterRead s a) := by
  have hcomm : afterRead (passBoundary s) a = passBoundary (afterRead s a) := by
    unfold afterRead
    rw [passBoundary_session]
    cases route s.session a <;> rfl
  rw [hcomm]
  rfl

/-! ## The fetch of the bytes at `PC` (R111, R112) -/

theorem memRead_of_standsAtPc {i : Instr} {s : State} (h : standsAtPc i s) {k : Nat} {b : Byte}
    (hb : (encode i)[k]? = some b) : memRead (s.cpu.pc + BitVec.ofNat 16 k) s = .next (b, s) := by
  obtain ⟨hplain, hbyte⟩ := h k (List.getElem?_eq_some_iff.mp hb).1
  rw [memRead_plain hplain, Option.some.inj (hbyte.symm.trans hb)]

theorem fetched_of_assemble {op b1 b2 : Byte} {i : Instr} (h : assemble op b1 b2 = some i) (s : State) :
    fetched op b1 b2 s = .next (i, s) := by
  simp only [fetched, h]

/-- Operand bytes read without effect are assembled with the opcode byte. -/
theorem fetchOperands_of_reads {op : Byte} {operand : List Byte} {i : Instr} {s : State} (hle : operand.length ≤ 2)
    (hasm : assemble op (operand.getD 0 0#8) (operand.getD 1 0#8) = some i)
    (hread : ∀ k b, operand[k]? = some b → memRead (s.cpu.pc + BitVec.ofNat 16 (k + 1)) s = .next (b, s)) :
    fetchOperands op (operand.length + 1) s = .next (i, s) := by
  unfold fetchOperands
  match operand, hle with
  | [], _ => exact fetched_of_assemble hasm s
  | [b1], _ =>
    rw [if_neg (by simp), hread 0 b1 rfl, chain_next]
    exact fetched_of_assemble hasm s
  | [b1, b2], _ =>
    rw [if_neg (by simp), hread 0 b1 rfl, chain_next, if_neg (by simp), hread 1 b2 rfl, chain_next]
    exact fetched_of_assemble hasm s

/-- An instruction whose bytes stand at `PC` is the one fetched, and fetching it changes nothing. -/
theorem fetch_of_standsAtPc {i : Instr} {s : State} (h : standsAtPc i s) : fetch s = .next (i, s) := by
  obtain ⟨e, he, hwf, hlen⟩ := Laws.EntryWf.holds i
  have hcode := encode_eq_opcode_cons i
  have hle := (MetaEntry.len_bounds hwf).2
  rw [← hlen, hcode, List.length_cons] at hle
  have hop : memRead s.cpu.pc s = .next (i.opcode, s) := by
    simpa using memRead_of_standsAtPc h (k := 0) (by rw [hcode]; rfl)
  have hoperands : fetchOperands i.opcode ((encode i).tail.length + 1) s = .next (i, s) :=
    fetchOperands_of_reads (by omega) (assemble_encode i) fun k b hb =>
      memRead_of_standsAtPc h (by rw [hcode]; exact hb)
  rw [← List.length_cons (a := i.opcode), ← hcode, hlen] at hoperands
  rw [fetch, fetchOpcode, hop, chain_next]
  simp only [he, hoperands]

end Sys2Proof.Machine

/-! # The settled statements about the execution loop (spec/41_execution_loop.md) -/

namespace Sys2Proof.Proofs
open Sys2Proof Sys2Proof.Machine Sys2Proof.Safety

/-- Settles O5: the entry of an instruction has the mnemonic and the length of its shape, and a shape that is no control
transfer advances `PC` by that length. -/
theorem pcAdvancesByTheLength : Obligations.PcAdvancesByTheLength := by
  intro i s t e h he hno
  obtain ⟨e', he', hmnemonic, hlen⟩ := metaOf_opcode i
  obtain rfl : e = e' := Option.some.inj (he.symm.trans he')
  rw [hmnemonic] at hno
  rw [hlen]
  exact Shape.run_pc (exec_eq_run i s ▸ h) hno

/-- Settles O12: a step that faults has made bus reads alone, and these keep the registers and all that is stored. -/
theorem faultLeavesRegistersAndMemory : Obligations.FaultLeavesRegistersAndMemory := by
  intro s f h
  obtain ⟨t, ht, hfault⟩ := step_eq_fault h
  obtain ⟨hcpu, hram, hsession, -, hvram, hpalette, hoam, hctrl, htoggle⟩ := ht.kept
  obtain ⟨hlatch, rfl⟩ | ⟨op, hop, rfl⟩ := hfault
  · refine ⟨hcpu, hram, hsession, hvram, hpalette, hoam, hctrl, htoggle, fun a u hf => ?_, nofun⟩
    cases hf
    exact ⟨rfl, hlatch⟩
  · refine ⟨hcpu, hram, hsession, hvram, hpalette, hoam, hctrl, htoggle, nofun, fun pc byte u hf => ?_⟩
    cases hf
    exact ⟨rfl, mem_unassignedBytes.mpr (metaOf_eq_none.mp hop)⟩

/-- Settles O13: the call is the view of the state after the fetch of the opcode byte, which reads and writes no
register. -/
theorem hookSeesThePreExecutionState : Obligations.HookSeesThePreExecutionState := by
  intro s
  refine ⟨?_, fun v hv => ?_⟩
  · rw [Option.isSome_iff_exists]
    exact ⟨fun ⟨_, hv⟩ => (hookCall_eq_some.mp hv).1, fun hcall => ⟨_, hookCall_eq_some.mpr ⟨hcall, rfl⟩⟩⟩
  · obtain ⟨-, rfl⟩ := hookCall_eq_some.mp hv
    have hcpu : (afterRead (passBoundary s) s.cpu.pc).cpu = s.cpu := afterRead_cpu _ _
    simp only [hookView, hcpu, peek_afterRead_passBoundary, and_self]

/-- Settles O6: past the boundary the bytes stand at `PC` as before, and are fetched without effect. -/
theorem stepRunsTheDecodedInstruction : Obligations.StepRunsTheDecodedInstruction := by
  intro i s hdue hstands
  have hpast : standsAtPc i (passBoundary s) := hstands
  simp only [step, hdue, fetch_of_standsAtPc hpast, chain_next]

end Sys2Proof.Proofs

/-! # Loads, stores and register transfers (spec/42_load_store_transfer.md R130 to R142) -/

namespace Sys2Proof.Machine
open Sys2Proof.Safety

/-! ## The forms of an instruction: one shape, over the operands of the table (spec/30_encoding.md R76) -/

/-- Every form in the list has the bytes it lists, and is the instruction of shape `k` on its operand. -/
def FormsOf (k : Operand → Shape) (forms : List Form) : Prop :=
  ∀ f ∈ forms, shapeOf f.instr = k f.operand ∧ encode f.instr = f.bytes

theorem formsOf_nil (k : Operand → Shape) : FormsOf k [] := by simp [FormsOf]

theorem formsOf_cons {k : Operand → Shape} {f : Form} {forms : List Form} :
    FormsOf k (f :: forms) ↔ (shapeOf f.instr = k f.operand ∧ encode f.instr = f.bytes) ∧ FormsOf k forms :=
  List.forall_mem_cons

section
variable (b : Byte) (w : Word)

theorem formsOf_lda : FormsOf (.load .a) (ldaForms b w) := by
  simp only [ldaForms, formsOf_cons, formsOf_nil, and_true]
  and_intros <;> rfl

theorem formsOf_ldx : FormsOf (.load .x) (ldxForms b w) := by
  simp only [ldxForms, formsOf_cons, formsOf_nil, and_true]
  and_intros <;> rfl

theorem formsOf_ldy : FormsOf (.load .y) (ldyForms b w) := by
  simp only [ldyForms, formsOf_cons, formsOf_nil, and_true]
  and_intros <;> rfl

theorem formsOf_sta : FormsOf (.store .a) (staForms b w) := by
  simp only [staForms, formsOf_cons, formsOf_nil, and_true]
  and_intros <;> rfl

theorem formsOf_stx : FormsOf (.store .x) (stxForms b w) := by
  simp only [stxForms, formsOf_cons, formsOf_nil, and_true]
  and_intros <;> rfl

theorem formsOf_sty : FormsOf (.store .y) (styForms b w) := by
  simp only [styForms, formsOf_cons, formsOf_nil, and_true]
  and_intros <;> rfl

/-- The memory forms of a read-modify-write instruction. -/
def ModifyKind.forms (k : ModifyKind) : List Form :=
  match k with
  | .asl => aslForms b w
  | .lsr => lsrForms b w
  | .rol => rolForms b w
  | .ror => rorForms b w
  | .inc => incForms b w
  | .dec => decForms b w

theorem ModifyKind.formsOf (k : ModifyKind) : FormsOf (.memory k) (k.forms b w) := by
  cases k <;>
    simp only [ModifyKind.forms, aslForms, lsrForms, rolForms, rorForms, incForms, decForms, formsOf_cons, formsOf_nil,
      and_true] <;>
    and_intros <;> rfl

end

/-- The advance that ends a shape moves `PC` past the bytes of the instruction (spec/41_execution_loop.md R117). -/
theorem advance_len_eq {i : Instr} {bytes : List Byte} (h : encode i = bytes) {s t : State}
    (hpc : t.cpu.pc = s.cpu.pc) : t.advance (shapeOf i).len = t.setPc (pcAfter bytes s) := by
  obtain ⟨e, he, -, hlen⟩ := Laws.EntryWf.holds i
  obtain ⟨e', he', -, hlen'⟩ := metaOf_opcode i
  obtain rfl : e = e' := Option.some.inj (he.symm.trans he')
  rw [State.advance, pcAfter, hpc, ← hlen', ← hlen, h]

/-! ## What the shapes complete with -/

section
variable {forms : List Form} {r : Reg} (s : State)

theorem FormsOf.load_readsThen (h : FormsOf (.load r) forms) :
    ∀ f ∈ forms, readsThen f s fun v t => (t.setReg r v).setP (setZN v t.cpu.p) := by
  intro f hf
  obtain ⟨hshape, hbytes⟩ := h f hf
  refine ⟨hbytes, fun hread => ?_⟩
  rw [exec_eq_run, ← advance_len_eq hbytes (by simp), hshape]
  exact load_eq_next.mpr ⟨hread, by simp [Shape.len]⟩

theorem FormsOf.store_storesByte (h : FormsOf (.store r) forms) :
    ∀ f ∈ forms, storesByte f s (s.reg r) := by
  intro f hf
  obtain ⟨hshape, hbytes⟩ := h f hf
  refine ⟨hbytes, fun hwrite => ?_⟩
  rw [exec_eq_run, ← advance_len_eq hbytes (by simp), hshape]
  exact store_eq_next.mpr ⟨hwrite, rfl⟩

theorem move_completesWith {i : Instr} {k : MoveKind} {opcode : Byte} (hshape : shapeOf i = .move k)
    (hbytes : encode i = [opcode]) :
    completesWith i opcode s ((s.setReg k.target (s.reg k.source)).setP (setZN (s.reg k.source) s.cpu.p)) := by
  refine ⟨hbytes, ?_⟩
  rw [exec_eq_run, ← advance_len_eq hbytes (by simp), hshape]
  rfl

end

/-! ## What one bus write leaves unchanged (spec/20_memory.md R47, R48, R56) -/

/-- `t` differs from `s` in no more than one bus write at `a` can change: the byte of the cell that `a` reaches, the latch at
the data port and at the address port, and the register of the port that `a` is. -/
structure WritesAt (a : Word) (s t : State) : Prop where
  memory : memoryKeptBut a s.ppu s t
  buf : t.ppu.buf = s.ppu.buf
  ctrl : route s.session a ≠ .controlPort → t.ppu.ctrl = s.ppu.ctrl
  hiNext : route s.session a ≠ .addressPort → t.ppu.hiNext = s.ppu.hiNext
  addr : route s.session a ∉ [.addressPort, .dataPort] → t.ppu.addr = s.ppu.addr

theorem memoryKeptBut_of_eq {s t : State} (a : Word) (u : Ppu) (hram : t.ram = s.ram)
    (hvram : t.ppu.vram = s.ppu.vram) (hpalette : t.ppu.palette = s.ppu.palette) : memoryKeptBut a u s t :=
  ⟨fun _ _ => by rw [hram], fun _ _ => by rw [hvram], fun _ _ => by rw [hpalette]⟩

/-- At the data port the write reaches the one cell the latch selects. -/
theorem memoryKeptBut_writeDataPort {s : State} {a : Word} {v : Byte} {u : Ppu} (hr : route s.session a = .dataPort)
    (hu : writeDataPort s.session v s.ppu = some u) : memoryKeptBut a s.ppu s (s.setPpu u) := by
  obtain ⟨-, rfl⟩ | ⟨hregion, rfl⟩ | ⟨hregion, rfl⟩ := writeDataPort_eq_some hu
  · exact memoryKeptBut_of_eq _ _ rfl rfl rfl
  · exact ⟨fun _ _ => rfl, fun n hn => Memory.read_write_other _ (fun e => hn ⟨hr, hregion, e.symm⟩) v, fun _ _ => rfl⟩
  · exact ⟨fun _ _ => rfl, fun _ _ => rfl, fun n hn => Memory.read_write_other _ (fun e => hn ⟨hr, hregion, e.symm⟩) v⟩

theorem writeDataPort_registers {k : Session} {v : Byte} {u u' : Ppu} (h : writeDataPort k v u = some u') :
    u'.buf = u.buf ∧ u'.ctrl = u.ctrl ∧ u'.hiNext = u.hiNext := by
  obtain ⟨-, rfl⟩ | ⟨-, rfl⟩ | ⟨-, rfl⟩ := writeDataPort_eq_some h <;> exact ⟨rfl, rfl, rfl⟩

theorem WritesAt.refl (a : Word) (s : State) : WritesAt a s s :=
  ⟨memoryKeptBut_of_eq a s.ppu rfl rfl rfl, rfl, fun _ => rfl, fun _ => rfl, fun _ => rfl⟩

theorem afterWrite_writesAt (s : State) (a : Word) (v : Byte) : WritesAt a s (afterWrite s a v) := by
  unfold afterWrite
  cases hr : route s.session a with
  | ram n =>
    have hram : ∀ m, route s.session a ≠ .ram m → Memory.read (Memory.write s.ram n v) m = Memory.read s.ram m :=
      fun m hm => Memory.read_write_other _ (fun e => hm (by rw [hr, e])) v
    exact ⟨⟨hram, fun _ _ => rfl, fun _ _ => rfl⟩, rfl, fun _ => rfl, fun _ => rfl, fun _ => rfl⟩
  | controlPort =>
    exact ⟨memoryKeptBut_of_eq _ _ rfl rfl rfl, rfl, fun hno => absurd hr hno, fun _ => rfl, fun _ => rfl⟩
  | addressPort =>
    exact ⟨memoryKeptBut_of_eq _ _ rfl rfl rfl, rfl, fun _ => rfl, fun hno => absurd hr hno,
      fun hno => absurd hr fun e => hno (by simp [e])⟩
  | dataPort =>
    cases hu : writeDataPort s.session v s.ppu with
    | none => exact .refl a s
    | some u =>
      obtain ⟨hbuf, hctrl, htoggle⟩ := writeDataPort_registers hu
      exact ⟨memoryKeptBut_writeDataPort hr hu, hbuf, fun _ => hctrl, fun _ => htoggle,
        fun hno => absurd hr fun e => hno (by simp [e])⟩
  | prg | ppuRegister | unmapped => exact .refl a s

theorem exec_store_writesAt {i : Instr} {r : Reg} {op : Operand} {s t : State} (hshape : shapeOf i = .store r op)
    (h : exec i s = .next t) : WritesAt (peekAddress op s) s t := by
  rw [exec_eq_run, hshape] at h
  obtain ⟨-, rfl⟩ := store_eq_next.mp h
  exact { afterWrite_writesAt s _ _ with }

/-! ## What a read-modify-write leaves unchanged (spec/44_shift_inc_dec.md R170) -/

/-- The write-only ports cannot be read. -/
theorem route_ne_of_readable {s : State} {a : Word} (h : readable s a = true) :
    route s.session a ≠ .controlPort ∧ route s.session a ≠ .addressPort := by
  constructor <;> intro hr <;> simp [readable, hr] at h

/-- A readable address other than the data port is stored in RAM or `PRG`. -/
theorem plain_of_readable {s : State} {a : Word} (h : readable s a = true) (hr : route s.session a ≠ .dataPort) :
    plain s a = true := by
  unfold readable at h
  unfold plain
  cases hq : route s.session a <;> simp_all

theorem afterWrite_plain_ppu {s : State} {a : Word} (h : plain s a = true) (v : Byte) :
    (afterWrite s a v).ppu = s.ppu := by
  unfold plain at h
  unfold afterWrite
  cases hr : route s.session a <;> simp_all

/-- A read before the write leaves every memory alone, and the write then reaches the cell that the moved latch selects. -/
theorem WritesAt.memory_of_afterRead {a : Word} {s t : State} (h : WritesAt a (afterRead s a) t) :
    memoryKeptBut a (afterRead s a).ppu s t := by
  simpa [memoryKeptBut] using h.memory

theorem ModifyKind.flags_subset (k : ModifyKind) : k.flags ⊆ [.carry, .zero, .negative] := by
  cases k <;> decide

/-- A read-modify-write writes an address it has just read, so no write-only port; the PPU block moves at the data port
alone. -/
theorem exec_memory_frame {i : Instr} {k : ModifyKind} {op : Operand} {s t : State} (hshape : shapeOf i = .memory k op)
    (h : exec i s = .next t) :
    memoryKeptBut (peekAddress op s) (afterRead s (peekAddress op s)).ppu s t ∧ t.ppu.ctrl = s.ppu.ctrl ∧
      t.ppu.hiNext = s.ppu.hiNext ∧ (route s.session (peekAddress op s) ≠ .dataPort → t.ppu = s.ppu) := by
  rw [exec_eq_run, hshape] at h
  obtain ⟨hmodifiable, rfl⟩ := modify_eq_next.mp h
  obtain ⟨hread, -⟩ := Bool.and_eq_true_iff.mp hmodifiable
  obtain ⟨hctrl, haddr⟩ := route_ne_of_readable hread
  have hwrite := afterWrite_writesAt (afterRead s (peekAddress op s)) (peekAddress op s)
    (k.op (peek s (peekAddress op s)) s.cpu.p).1
  refine ⟨hwrite.memory_of_afterRead, ?_, ?_, fun hport => ?_⟩
  · simpa using hwrite.ctrl (by simpa using hctrl)
  · simpa using hwrite.hiNext (by simpa using haddr)
  · have hplain := plain_of_readable hread hport
    simp [afterRead_plain hplain, afterWrite_plain_ppu hplain]

/-! ## The forms of the stores and of the read-modify-writes -/

theorem shapeOf_storeForm {b : Byte} {w : Word} {f : Form}
    (hf : f ∈ staForms b w ++ stxForms b w ++ styForms b w) : ∃ r, shapeOf f.instr = .store r f.operand := by
  simp only [List.mem_append] at hf
  obtain (hf | hf) | hf := hf
  · exact ⟨_, (formsOf_sta b w f hf).1⟩
  · exact ⟨_, (formsOf_stx b w f hf).1⟩
  · exact ⟨_, (formsOf_sty b w f hf).1⟩

theorem shapeOf_modifyForm {b : Byte} {w : Word} {f : Form}
    (hf : f ∈ aslForms b w ++ lsrForms b w ++ rolForms b w ++ rorForms b w ++ incForms b w ++ decForms b w) :
    ∃ k, shapeOf f.instr = .memory k f.operand := by
  simp only [List.mem_append] at hf
  obtain ((((hf | hf) | hf) | hf) | hf) | hf := hf
  · exact ⟨_, (ModifyKind.formsOf b w .asl f hf).1⟩
  · exact ⟨_, (ModifyKind.formsOf b w .lsr f hf).1⟩
  · exact ⟨_, (ModifyKind.formsOf b w .rol f hf).1⟩
  · exact ⟨_, (ModifyKind.formsOf b w .ror f hf).1⟩
  · exact ⟨_, (ModifyKind.formsOf b w .inc f hf).1⟩
  · exact ⟨_, (ModifyKind.formsOf b w .dec f hf).1⟩

end Sys2Proof.Machine

/-! # The settled statements about loads, stores and transfers (spec/42_load_store_transfer.md) -/

namespace Sys2Proof.Proofs
open Sys2Proof Sys2Proof.Machine Sys2Proof.Safety

/-- Settles O20: every form is the load of its register, with the bytes of the table. -/
theorem loadsComplete : Obligations.LoadsComplete := fun b w s =>
  ⟨(formsOf_lda b w).load_readsThen s, (formsOf_ldx b w).load_readsThen s, (formsOf_ldy b w).load_readsThen s⟩

/-- Settles O21: every form is the store of its register, with the bytes of the table. -/
theorem storesComplete : Obligations.StoresComplete := fun b w s =>
  ⟨(formsOf_sta b w).store_storesByte s, (formsOf_stx b w).store_storesByte s, (formsOf_sty b w).store_storesByte s⟩

/-- Settles O22: five of the transfers set Z and N from the value moved; `TXS` has a shape of its own. -/
theorem transfersComplete : Obligations.TransfersComplete := fun s =>
  ⟨move_completesWith s (k := .tax) rfl rfl, move_completesWith s (k := .tay) rfl rfl,
    move_completesWith s (k := .txa) rfl rfl, move_completesWith s (k := .tya) rfl rfl,
    move_completesWith s (k := .tsx) rfl rfl, rfl, rfl⟩

/-- Settles O59: the resolver changes nothing, a store is one bus write at its address, a read-modify-write one bus read
and then one write there; the registers and flags are those of the shape. -/
theorem storesWriteOnlyTheirByte : Obligations.StoresWriteOnlyTheirByte := by
  intro b w s t u f a h hresolve
  rw [resolve_eq] at hresolve
  cases hresolve
  have hruns := exec_runs h
  refine ⟨fun hf => ?store, fun hf => ?modify⟩
  case store =>
    obtain ⟨r, hshape⟩ := shapeOf_storeForm hf
    have hwrite := exec_store_writesAt hshape h
    rw [hshape] at hruns
    exact ⟨hwrite.memory, hruns.regsKept, hruns.flagsKept, hwrite.buf, hwrite.ctrl, hwrite.hiNext, hwrite.addr⟩
  case modify =>
    obtain ⟨k, hshape⟩ := shapeOf_modifyForm hf
    obtain ⟨hmemory, hctrl, htoggle, hppu⟩ := exec_memory_frame hshape h
    rw [hshape] at hruns
    exact ⟨hmemory, hruns.regsKept, fun f hno => hruns.flagsKept f fun hmem => hno (k.flags_subset hmem), hctrl, htoggle,
      hppu⟩

end Sys2Proof.Proofs

/-! # Arithmetic, logic, compares and the bit test (spec/43_arithmetic_logic.md R150 to R161) -/

namespace Sys2Proof.Machine
open Sys2Proof.Safety

/-! ## The bits and the complement of a byte, as numbers -/

theorem bit7_eq_decide (v : Byte) : bit7 v = decide (128 ≤ v.toNat) :=
  (BitVec.msb_eq_getLsbD_last v).symm.trans v.msb_eq_decide

theorem bit6_eq_decide (v : Byte) : bit6 v = decide (64 ≤ v.toNat % 128) := by
  rw [bit6, BitVec.getLsbD, Nat.testBit_eq_decide_div_mod_eq, decide_eq_decide]
  omega

theorem beq_zero_eq_decide (v : Byte) : (v == 0#8) = decide (v.toNat = 0) := by
  rw [beq_eq_decide, decide_eq_decide]
  exact BitVec.toNat_eq

/-- The complement of the operand of `SBC` (R153). -/
theorem complement_toNat (m : Byte) : (m ^^^ 0xFF#8).toNat = 255 - m.toNat := by
  rw [show m ^^^ 0xFF#8 = ~~~m from BitVec.xor_allOnes, BitVec.toNat_not]

/-! ## The status byte after one flag write after another -/

theorem flagsBecome_refl (p : Byte) : flagsBecome p p [] := by simp [flagsBecome]

/-- A flag not yet listed is written, and the flags written before keep their values. -/
theorem flagsBecome_putFlag {p q : Byte} {changes : List (Flag × Bool)} (h : flagsBecome p q changes) {f : Flag}
    {v : Bool} (hnew : f ∉ changes.map (fun c => c.1) := by simp) :
    flagsBecome p (putFlag q f v) (changes ++ [(f, v)]) := by
  obtain ⟨hlisted, hkept⟩ := h
  constructor
  · intro c hc
    rw [testFlag_putFlag]
    obtain hc | rfl : c ∈ changes ∨ c = (f, v) := by simpa using hc
    · have hne : c.1 ≠ f := fun e => hnew (e ▸ List.mem_map_of_mem hc)
      rw [if_neg hne, hlisted c hc]
    · exact if_pos rfl
  · intro g hg
    obtain ⟨hold, hne⟩ : g ∉ changes.map (fun c => c.1) ∧ g ≠ f := by simpa using hg
    rw [testFlag_putFlag, if_neg hne, hkept g hold]

/-- `SetZN` writes Z and N from the value (R150), after flags other than these. -/
theorem flagsBecome_setZN {p q : Byte} {changes : List (Flag × Bool)} (h : flagsBecome p q changes)
    {v : Byte} (hzero : .zero ∉ changes.map (fun c => c.1) := by simp)
    (hnegative : .negative ∉ changes.map (fun c => c.1) := by simp) :
    flagsBecome p (setZN v q)
      (changes ++ [(.zero, decide (v.toNat = 0)), (.negative, decide (128 ≤ v.toNat))]) := by
  rw [setZN, beq_zero_eq_decide, bit7_eq_decide, List.append_cons]
  exact flagsBecome_putFlag (flagsBecome_putFlag h hzero) (by simpa using hnegative)

/-! ## The sum of `ADC` and its flags (R152) -/

theorem adcSum_eq (a m p : Byte) :
    adcSum a m p = a.toNat + m.toNat + (if testFlag p .carry then 1 else 0) := by
  rw [adcSum]
  cases testFlag p .carry <;> rfl

theorem adcResult_toNat (a m p : Byte) : (adcResult a m p).toNat = adcSum a m p % 256 := BitVec.toNat_ofNat ..

theorem flagsBecome_adcStatus (a m p : Byte) :
    flagsBecome p (adcStatus a m p)
      [(.carry, decide (255 < adcSum a m p)), (.overflow, adcOverflow a m p),
       (.zero, decide ((adcResult a m p).toNat = 0)), (.negative, decide (128 ≤ (adcResult a m p).toNat))] :=
  flagsBecome_setZN (flagsBecome_putFlag (flagsBecome_putFlag (flagsBecome_refl p)))

/-- The formula of V looks at bit 7 alone: the result has it different from both inputs. -/
theorem adcOverflow_eq (a m p : Byte) :
    adcOverflow a m p = ((bit7 a != bit7 (adcResult a m p)) && (bit7 m != bit7 (adcResult a m p))) := by
  obtain ⟨-, -, -, -, -, -, -, hbit⟩ := testFlag_bits ((a ^^^ adcResult a m p) &&& (m ^^^ adcResult a m p))
  exact hbit.trans (by simp [bit7])

/-! ## `SBC`: the sum with the complemented operand (R153) -/

/-- The complement is 255 minus the operand, and 255 is -1 mod 256: the sum is the difference less the borrow. -/
theorem adcResult_complement_toNat (a m p : Byte) :
    ((adcResult a (m ^^^ 0xFF#8) p).toNat : Int) =
      ((a.toNat : Int) - m.toNat - (1 - (if testFlag p .carry then 1 else 0 : Nat))) % 256 := by
  rw [adcResult_toNat, adcSum_eq, complement_toNat]
  have := m.isLt
  split <;> omega

/-- The sum passes 255 exactly when the operand and the borrow can be taken from the accumulator. -/
theorem adcSum_complement_carry (a m p : Byte) :
    255 < adcSum a (m ^^^ 0xFF#8) p ↔ m.toNat + (1 - if testFlag p .carry then 1 else 0) ≤ a.toNat := by
  rw [adcSum_eq, complement_toNat]
  have := m.isLt
  split <;> omega

/-! ## Compares and the bit test (R157 to R160) -/

theorem flagsBecome_compareStatus (r m p : Byte) :
    flagsBecome p (compareStatus r m p)
      [(.carry, decide (m.toNat ≤ r.toNat)), (.zero, decide (r = m)),
       (.negative, decide (128 ≤ (256 + r.toNat - m.toNat) % 256))] := by
  have hdiff : (r - m).toNat = (256 + r.toNat - m.toNat) % 256 := by
    rw [BitVec.toNat_sub]
    have := m.isLt
    omega
  rw [← hdiff, ← bit7_eq_decide, ← beq_eq_decide]
  exact flagsBecome_putFlag (flagsBecome_putFlag (flagsBecome_putFlag (flagsBecome_refl p)))

theorem flagsBecome_bitStatus (a m p : Byte) :
    flagsBecome p (bitStatus a m p)
      [(.zero, decide (a &&& m = 0#8)), (.negative, decide (128 ≤ m.toNat)),
       (.overflow, decide (64 ≤ m.toNat % 128))] := by
  rw [← beq_eq_decide, ← bit7_eq_decide, ← bit6_eq_decide]
  exact flagsBecome_putFlag (flagsBecome_putFlag (flagsBecome_putFlag (flagsBecome_refl p)))

/-! ## The forms (spec/30_encoding.md R76), and what they complete with -/

section
variable (b : Byte) (w : Word)

/-- The forms of an accumulator operation. -/
def AluKind.forms (k : AluKind) : List Form :=
  match k with
  | .adc => adcForms b w
  | .sbc => sbcForms b w
  | .and => andForms b w
  | .ora => oraForms b w
  | .eor => eorForms b w

theorem AluKind.formsOf (k : AluKind) : FormsOf (.alu k) (k.forms b w) := by
  cases k <;>
    simp only [AluKind.forms, adcForms, sbcForms, andForms, oraForms, eorForms, formsOf_cons, formsOf_nil, and_true] <;>
    and_intros <;> rfl

/-- The forms of a compare or of the bit test. -/
def TestKind.forms (k : TestKind) : List Form :=
  match k with
  | .cmp => cmpForms b w
  | .cpx => cpxForms b w
  | .cpy => cpyForms b w
  | .bit => bitForms b w

theorem TestKind.formsOf (k : TestKind) : FormsOf (.test k) (k.forms b w) := by
  cases k <;>
    simp only [TestKind.forms, cmpForms, cpxForms, cpyForms, bitForms, formsOf_cons, formsOf_nil, and_true] <;>
    and_intros <;> rfl

end

section
variable {forms : List Form} (s : State)

theorem FormsOf.alu_readsThen {k : AluKind} (h : FormsOf (.alu k) forms) :
    ∀ f ∈ forms, readsThen f s fun m t =>
      (t.setReg .a (k.value t.cpu.a m t.cpu.p)).setP (k.status t.cpu.a m t.cpu.p) := by
  intro f hf
  obtain ⟨hshape, hbytes⟩ := h f hf
  refine ⟨hbytes, fun hread => ?_⟩
  rw [exec_eq_run, ← advance_len_eq hbytes (by simp), hshape]
  exact accumulate_eq_next.mpr ⟨hread, by simp [Shape.len]⟩

theorem FormsOf.test_readsThen {k : TestKind} (h : FormsOf (.test k) forms) :
    ∀ f ∈ forms, readsThen f s fun m t => t.setP (k.status (t.reg k.reg) m t.cpu.p) := by
  intro f hf
  obtain ⟨hshape, hbytes⟩ := h f hf
  refine ⟨hbytes, fun hread => ?_⟩
  rw [exec_eq_run, ← advance_len_eq hbytes (by simp), hshape]
  exact examine_eq_next.mpr ⟨hread, by simp [Shape.len, reg_congr (operandAfter_cpu f.operand s)]⟩

end

end Sys2Proof.Machine

/-! # The settled statements about arithmetic and logic (spec/43_arithmetic_logic.md) -/

namespace Sys2Proof.Proofs
open Sys2Proof Sys2Proof.Machine Sys2Proof.Safety

/-- Settles O23: `SetZN` is the two flag writes, after no other. -/
theorem setZNWritesZeroAndNegative : Obligations.SetZNWritesZeroAndNegative := fun _ p =>
  flagsBecome_setZN (flagsBecome_refl p)

/-- Settles O24: the flags are the four writes of the status, and every form is the operation on its operand. -/
theorem adcCompletes : Obligations.AdcCompletes := by
  refine ⟨fun a m p => ?_, fun b w s => (AluKind.adc.formsOf b w).alu_readsThen s⟩
  have hflags := flagsBecome_adcStatus a m p
  rw [adcResult_toNat, adcOverflow, adcResult, adcSum_eq] at hflags
  exact ⟨by rw [adcResult, adcSum_eq], hflags⟩

/-- Settles O25. Bit 7 of a byte is the sign of its two's complement value; the result differs in sign from both inputs
exactly when the signed sum leaves the range. -/
theorem adcOverflowIsSignedOverflow : Obligations.AdcOverflowIsSignedOverflow := by
  intro a m p
  obtain ⟨hlisted, -⟩ := flagsBecome_adcStatus a m p
  rw [hlisted (.overflow, adcOverflow a m p) (by simp), adcOverflow_eq]
  simp only [bit7_eq_decide, adcResult_toNat, adcSum_eq, BitVec.toInt_eq_toNat_cond, Bool.and_eq_true,
    bne_iff_ne, ne_eq, decide_eq_decide]
  have := a.isLt
  have := m.isLt
  split_ifs <;> omega

/-- Settles O26: `SBC` is `ADC` of the complemented operand, 255 minus the operand, so that the sum passes 255 exactly
when there is no borrow. -/
theorem sbcCompletes : Obligations.SbcCompletes := by
  intro b w s f hf
  obtain ⟨hbytes, hexec⟩ := (AluKind.sbc.formsOf b w).alu_readsThen s f hf
  refine ⟨hbytes, fun hread => ?_⟩
  intro m c n sum r
  have hr : r = adcResult s.cpu.a n s.cpu.p := congrArg (BitVec.ofNat 8) (adcSum_eq s.cpu.a n s.cpu.p).symm
  refine ⟨adcStatus s.cpu.a n s.cpu.p, ?exec, ?value, ?flags⟩ <;> rw [hr]
  case exec =>
    simp only [hexec hread, operandAfter_cpu]
    rfl
  case value => exact adcResult_complement_toNat s.cpu.a m s.cpu.p
  case flags =>
    have hflags := flagsBecome_adcStatus s.cpu.a n s.cpu.p
    rwa [decide_eq_decide.mpr (adcSum_complement_carry s.cpu.a m s.cpu.p)] at hflags

/-- Settles O27: every form is the bitwise operation on its operand. -/
theorem logicCompletes : Obligations.LogicCompletes := fun b w s =>
  ⟨(AluKind.and.formsOf b w).alu_readsThen s, (AluKind.ora.formsOf b w).alu_readsThen s,
    (AluKind.eor.formsOf b w).alu_readsThen s⟩

/-- Settles O28: the flags are the three writes of the status, and every form is the compare of its register. -/
theorem comparesComplete : Obligations.ComparesComplete :=
  ⟨flagsBecome_compareStatus, fun b w s => ⟨(TestKind.cmp.formsOf b w).test_readsThen s,
    (TestKind.cpx.formsOf b w).test_readsThen s, (TestKind.cpy.formsOf b w).test_readsThen s⟩⟩

/-- Settles O29: the flags are the three writes of the status, and both forms are the test of their operand. -/
theorem bitTestCompletes : Obligations.BitTestCompletes :=
  ⟨flagsBecome_bitStatus, fun b w s => (TestKind.bit.formsOf b w).test_readsThen s⟩

end Sys2Proof.Proofs

/-! # Shifts, increments and decrements (spec/44_shift_inc_dec.md R170 to R180) -/

namespace Sys2Proof.Machine
open Sys2Proof.Safety

/-! ## The results as numbers -/

theorem bit0_eq_decide (v : Byte) : bit0 v = decide (v.toNat % 2 = 1) := by
  rw [bit0, BitVec.getLsbD, Nat.testBit_zero]

/-- The carry rotated in lies where the shift has left a 0, so joining it to the shifted byte adds it. -/
theorem or_carry_toNat {shifted mask : Byte} (hdisjoint : shifted &&& mask = 0#8) (c : Bool) :
    (shifted ||| (if c then mask else 0x00#8)).toNat = shifted.toNat + mask.toNat * if c then 1 else 0 := by
  cases c with
  | false => simp
  | true =>
    rw [if_pos rfl, if_pos rfl, Nat.mul_one, ← BitVec.add_eq_or_of_and_eq_zero _ _ hdisjoint,
      BitVec.toNat_add_of_and_eq_zero hdisjoint]

section
variable (m p : Byte)

theorem aslOp_toNat : (aslOp m p).1.toNat = m.toNat * 2 % 256 := by
  simp [aslOp, Nat.shiftLeft_eq]

theorem lsrOp_toNat : (lsrOp m p).1.toNat = m.toNat / 2 := by
  simp [lsrOp, Nat.shiftRight_eq_div_pow]

theorem rolOp_toNat :
    (rolOp m p).1.toNat = m.toNat * 2 % 256 + if testFlag p .carry then 1 else 0 := by
  have hdisjoint : m <<< 1 &&& 0x01#8 = 0#8 := by revert m; decide
  rw [← aslOp_toNat m p, ← Nat.one_mul (ite _ _ _)]
  exact or_carry_toNat hdisjoint _

theorem rorOp_toNat :
    (rorOp m p).1.toNat = m.toNat / 2 + 128 * if testFlag p .carry then 1 else 0 := by
  have hdisjoint : m >>> 1 &&& 0x80#8 = 0#8 := by revert m; decide
  rw [← lsrOp_toNat m p]
  exact or_carry_toNat hdisjoint _

theorem incOp_toNat : (incOp m p).1.toNat = (m.toNat + 1) % 256 := BitVec.toNat_add ..

theorem decOp_toNat : (decOp m p).1.toNat = (m.toNat + 255) % 256 := by
  rw [Nat.add_comm]
  exact BitVec.toNat_sub ..

/-! ## The flags -/

/-- The shift leaves bit 7 at 0. -/
theorem lsrOp_negative : decide (128 ≤ (lsrOp m p).1.toNat) = false := by
  rw [lsrOp_toNat]
  have := m.isLt
  exact decide_eq_false (by omega)

/-- Bit 7 of the result is the carry that came in. -/
theorem rorOp_negative : decide (128 ≤ (rorOp m p).1.toNat) = testFlag p .carry := by
  rw [rorOp_toNat]
  have := m.isLt
  cases testFlag p .carry with
  | false => exact decide_eq_false (by rw [if_neg Bool.false_ne_true]; omega)
  | true => exact decide_eq_true (by rw [if_pos rfl]; omega)

theorem flagsBecome_incOp :
    flagsBecome p (incOp m p).2
      [(.zero, decide ((m.toNat + 1) % 256 = 0)), (.negative, decide (128 ≤ (m.toNat + 1) % 256))] := by
  rw [← incOp_toNat m p]
  exact flagsBecome_setZN (flagsBecome_refl p)

theorem flagsBecome_decOp :
    flagsBecome p (decOp m p).2
      [(.zero, decide ((m.toNat + 255) % 256 = 0)), (.negative, decide (128 ≤ (m.toNat + 255) % 256))] := by
  rw [← decOp_toNat m p]
  exact flagsBecome_setZN (flagsBecome_refl p)

end

/-- The status of a shift: the bit shifted out goes to C, then Z and N follow the result. -/
theorem flagsBecome_carry_setZN {p v : Byte} {out carry negative : Bool} (hcarry : out = carry)
    (hnegative : decide (128 ≤ v.toNat) = negative) :
    flagsBecome p (setZN v (putFlag p .carry out))
      [(.carry, carry), (.zero, decide (v = 0#8)), (.negative, negative)] := by
  rw [← hcarry, ← hnegative, decide_eq_decide.mpr (BitVec.toNat_eq (y := 0#8))]
  exact flagsBecome_setZN (flagsBecome_putFlag (flagsBecome_refl p))

/-! ## What the forms complete with -/

section
variable (s : State)

theorem FormsOf.memory_modifiesBy {k : ModifyKind} {forms : List Form} (h : FormsOf (.memory k) forms) :
    ∀ f ∈ forms, modifiesBy f s k.op := by
  intro f hf
  obtain ⟨hshape, hbytes⟩ := h f hf
  refine ⟨hbytes, fun hmodifiable => ?_⟩
  rw [exec_eq_run, ← advance_len_eq hbytes (by simp), hshape]
  exact modify_eq_next.mpr ⟨hmodifiable, rfl⟩

/-- A one-operand function on a register, whichever the register: the accumulator forms and the register increments. -/
theorem modifyReg_completesWith {i : Instr} {f : Unary} {r : Reg} {opcode : Byte} (hexec : exec i s = modifyReg f r s)
    (hbytes : encode i = [opcode]) :
    completesWith i opcode s ((s.setReg r (f (s.reg r) s.cpu.p).1).setP (f (s.reg r) s.cpu.p).2) := by
  refine ⟨hbytes, ?_⟩
  rw [hexec, modifyReg, State.advance, setP_cpu_pc, setReg_cpu_pc]
  rfl

end

end Sys2Proof.Machine

/-! # The settled statements about shifts, increments and decrements (spec/44_shift_inc_dec.md) -/

namespace Sys2Proof.Proofs
open Sys2Proof Sys2Proof.Machine Sys2Proof.Safety

/-- Settles O30: a rotation is its shift with the old carry in the bit left free; every memory form is the
read-modify-write of its operation, and every accumulator form the operation on `A`. -/
theorem shiftsComplete : Obligations.ShiftsComplete := by
  refine ⟨fun m p => ?operations, fun b w s => ?forms⟩
  case operations =>
    exact ⟨aslOp_toNat m p, lsrOp_toNat m p, rolOp_toNat m p, rorOp_toNat m p,
      flagsBecome_carry_setZN (bit7_eq_decide m) rfl, flagsBecome_carry_setZN (bit0_eq_decide m) (lsrOp_negative m p),
      flagsBecome_carry_setZN (bit7_eq_decide m) rfl, flagsBecome_carry_setZN (bit0_eq_decide m) (rorOp_negative m p)⟩
  case forms =>
    exact ⟨(ModifyKind.asl.formsOf b w).memory_modifiesBy s, (ModifyKind.lsr.formsOf b w).memory_modifiesBy s,
      (ModifyKind.rol.formsOf b w).memory_modifiesBy s, (ModifyKind.ror.formsOf b w).memory_modifiesBy s,
      modifyReg_completesWith s rfl rfl, modifyReg_completesWith s rfl rfl, modifyReg_completesWith s rfl rfl,
      modifyReg_completesWith s rfl rfl⟩

/-- Settles O31: the flags are those of `SetZN` on the result, and every form is the read-modify-write of its operation. -/
theorem memoryIncrementsComplete : Obligations.MemoryIncrementsComplete :=
  ⟨fun m p => ⟨incOp_toNat m p, decOp_toNat m p, flagsBecome_incOp m p, flagsBecome_decOp m p⟩,
    fun b w s => ⟨(ModifyKind.inc.formsOf b w).memory_modifiesBy s, (ModifyKind.dec.formsOf b w).memory_modifiesBy s⟩⟩

/-- Settles O32: the instructions are `INC` and `DEC` on their register. -/
theorem registerIncrementsComplete : Obligations.RegisterIncrementsComplete := fun s =>
  ⟨modifyReg_completesWith s (f := incOp) (r := .x) rfl rfl, modifyReg_completesWith s (f := incOp) (r := .y) rfl rfl,
    modifyReg_completesWith s (f := decOp) (r := .x) rfl rfl, modifyReg_completesWith s (f := decOp) (r := .y) rfl rfl⟩

end Sys2Proof.Proofs

/-! # Control transfers (spec/45_control_flow.md R190 to R205), and the return from an interrupt (spec/60_exceptions.md
R318, R323) -/

namespace Sys2Proof.Machine
open Sys2Proof.Safety

/-! ## Jumps and branches -/

/-- The high byte of one word over the low byte of another: each mask keeps its own eight bits. -/
theorem and_or_and_eq_join (w v : Word) : (w &&& 0xFF00#16) ||| (v &&& 0x00FF#16) = join (hi w) (lo v) := by
  ext i hlt
  interval_cases i <;> simp [join, hi, lo]

/-- The page of the pointer is kept; the low byte of the successor wraps within it (R205). -/
theorem pageSuccessor_eq (w : Word) :
    pageSuccessor w = BitVec.ofNat 16 (w.toNat / 256 * 256 + (w.toNat + 1) % 256) := by
  apply BitVec.eq_of_toNat_eq
  rw [pageSuccessor, and_or_and_eq_join, join_toNat, hi_toNat, lo_toNat, BitVec.toNat_add, BitVec.toNat_ofNat,
    BitVec.toNat_ofNat]
  have := w.isLt
  omega

theorem execJmpInd_of_readable {w : Word} {s : State} (hlow : readable s w = true)
    (hhigh : readable (afterRead s w) (pageSuccessor w) = true) :
    execJmpInd w s = .next ((afterRead (afterRead s w) (pageSuccessor w)).setPc
      (join (peek (afterRead s w) (pageSuccessor w)) (peek s w))) := by
  rw [execJmpInd, memRead_eq_of_readable hlow, chain_next, memRead_eq_of_readable hhigh, chain_next]

/-- The displacement is signed, and the sum wraps mod 65536 (R196). -/
theorem branch_target (pc : Word) (b : Byte) :
    pc + 2#16 + sext b = BitVec.ofInt 16 ((pc.toNat : Int) + 2 + b.toInt) := by
  rw [sext, BitVec.signExtend, BitVec.ofInt_add, BitVec.ofInt_add, BitVec.ofInt_natCast, BitVec.ofNat_toNat]
  simp

/-- An instruction of a branch shape is the branch on the condition of its kind. -/
theorem branches_of_shape {i : Instr} {k : BranchKind} {opcode b : Byte} (hshape : shapeOf i = .branch k b)
    (hbytes : encode i = [opcode, b]) (s : State) : branches i opcode b (k.taken s) s := by
  refine ⟨hbytes, ?_⟩
  rw [exec_eq_run, hshape, ← branch_target]
  change Machine.branch (k.taken s) b s = _
  rw [branch]
  cases k.taken s <;> rfl

/-! ## The stack after pushes (R192, R194, R195) -/

theorem stackCell_ne {a b : Byte} (h : a ≠ b) : stackCell a ≠ stackCell b := fun hcell => h (stackCell_inj hcell)

section
variable {m : Memory} (hwf : Memory.wf m = true) (sp : Byte)
include hwf

/-- Each of two pushed bytes is read back at its cell, the first one above the second. -/
theorem read_pushedTwo (a b : Byte) :
    let m' := Memory.write (Memory.write m (stackCell sp) a) (stackCell (sp - 1#8)) b
    Memory.read m' (stackCell sp) = a ∧ Memory.read m' (stackCell (sp - 1#8)) = b := by
  constructor
  · rw [Memory.read_write_other _ (stackCell_ne (by bv_omega)), Memory.read_write_same hwf]
  · rw [Memory.read_write_same (Memory.write_wf hwf ..)]

theorem read_pushedThree (a b c : Byte) :
    Memory.read (pushedThree m sp a b c) (stackCell sp) = a ∧
    Memory.read (pushedThree m sp a b c) (stackCell (sp - 1#8)) = b ∧
    Memory.read (pushedThree m sp a b c) (stackCell (sp - 2#8)) = c := by
  obtain ⟨ha, hb⟩ := read_pushedTwo hwf sp a b
  refine ⟨?_, ?_, Memory.read_write_same (Memory.write_wf (Memory.write_wf hwf ..) ..) ..⟩
  · rw [pushedThree, Memory.read_write_other _ (stackCell_ne (by bv_omega)), ha]
  · rw [pushedThree, Memory.read_write_other _ (stackCell_ne (by bv_omega)), hb]

end

/-! ## Calls and returns -/

theorem exec_jsr (w : Word) (s : State) :
    exec (.jsr w) s = .next
      { s with
        cpu := { s.cpu with sp := s.cpu.sp - 2#8, pc := w }
        ram := Memory.write (Memory.write s.ram (stackCell s.cpu.sp) (hi (s.cpu.pc + 2#16)))
          (stackCell (s.cpu.sp - 1#8)) (lo (s.cpu.pc + 2#16)) } := by
  change execJsr w s = _
  rw [execJsr, pushWord_eq, chain_next, BitVec.sub_sub]
  rfl

theorem exec_rts (s : State) :
    exec .rts s = .next
      { s with
        cpu := { s.cpu with
          sp := s.cpu.sp + 2#8
          pc := join (Memory.read s.ram (stackCell (s.cpu.sp + 2#8))) (Memory.read s.ram (stackCell (s.cpu.sp + 1#8)))
            + 1#16 } } := by
  change execRts s = _
  rw [execRts, pullWord_eq, chain_next, BitVec.add_assoc]
  rfl

theorem exec_rti (s : State) :
    exec .rti s = .next
      { s with
        cpu := { s.cpu with
          sp := s.cpu.sp + 3#8
          p := pulledStatus (Memory.read s.ram (stackCell (s.cpu.sp + 1#8)))
          pc := join (Memory.read s.ram (stackCell (s.cpu.sp + 3#8)))
            (Memory.read s.ram (stackCell (s.cpu.sp + 2#8))) } } := by
  change execRti s = _
  rw [execRti, returnFromInterrupt, pull_eq, chain_next, pullWord_eq, chain_next]
  simp only [setP_cpu_sp, setReg_sp_cpu_sp, setP_ram, setReg_sp_ram, BitVec.add_assoc]
  rfl

/-! ## The status byte on the stack (R194, spec/46_stack_flags_system.md R213, spec/60_exceptions.md R318) -/

/-- The two pushed copies of `P` differ from it in bits 4 and 5 alone, which the pull forces. -/
theorem pulledStatus_pushed (p : Byte) :
    pulledStatus (pushedBySoftware p) = pulledStatus p ∧ pulledStatus (pushedByInterrupt p) = pulledStatus p := by
  revert p; decide

/-- Forcing bits 4 and 5 changes nothing where they have the forced values (spec/10_state.md R17). -/
theorem pulledStatus_of_brk_unused {p : Byte} (hbrk : testFlag p .brk = false) (hunused : testFlag p .unused = true) :
    pulledStatus p = p := by
  refine status_ext fun f => ?_
  rw [testFlag_pulledStatus]
  split_ifs with hf hf'
  · rw [hf, hbrk]
  · rw [hf', hunused]
  · rfl

/-- `RTI` undoes an entry whose copy of `P` is pulled back as it was: what was pushed is what is pulled. -/
theorem exec_rti_of_enter {ret vector : Word} {pushed : Byte} {s t : State} (hwf : Memory.wf s.ram = true)
    (hhigh : 0x8000 ≤ vector.toNat) (hlast : vector.toNat < 0xFFFF) (hpulled : pulledStatus pushed = s.cpu.p)
    (h : enter ret pushed vector s = .next t) :
    ∃ u, exec .rti t = .next u ∧ u.cpu = { s.cpu with pc := ret } ∧ u.ram = t.ram ∧ u.ppu = s.ppu := by
  rw [enter_eq _ _ _ hhigh hlast] at h
  cases h
  obtain ⟨hret, hret', hp⟩ := read_pushedThree hwf s.cpu.sp (hi ret) (lo ret) pushed
  refine ⟨_, exec_rti _, ?_, rfl, rfl⟩
  have h1 : s.cpu.sp - 3#8 + 1#8 = s.cpu.sp - 2#8 := by bv_omega
  have h2 : s.cpu.sp - 3#8 + 2#8 = s.cpu.sp - 1#8 := by bv_omega
  have h3 : s.cpu.sp - 3#8 + 3#8 = s.cpu.sp := by bv_omega
  simp only [h1, h2, h3, hret, hret', hp, hpulled, join_hi_lo]

/-- An IRQ is due only with the latch clear (spec/60_exceptions.md R321). -/
theorem nmiPending_of_dueEvent_irq {s : State} (h : dueEvent s = .irq) : s.cpu.nmiPending = false := by
  unfold dueEvent at h
  split_ifs at h with _ hnmi
  simp only [Bool.or_eq_true, not_or, Bool.not_eq_true] at hnmi
  exact hnmi.1

end Sys2Proof.Machine

/-! # The settled statements about control flow (spec/45_control_flow.md) -/

namespace Sys2Proof.Proofs
open Sys2Proof Sys2Proof.Machine Sys2Proof.Safety

/-- Settles O8: both interrupts are an entry whose copy of `P` the pull turns back into `P`; an NMI clears the latch
before the entry, and an IRQ is due only with the latch clear. -/
theorem returnUndoesInterrupt : Obligations.ReturnUndoesInterrupt := by
  intro s t hwf hbrk hunused hdue h
  have hpulled : pulledStatus (pushedByInterrupt s.cpu.p) = s.cpu.p := by
    rw [(pulledStatus_pushed _).2, pulledStatus_of_brk_unused hbrk hunused]
  obtain hnmi | hirq := hdue
  · simp only [step, hnmi, takeNmi, takeInterrupt] at h
    exact exec_rti_of_enter (s := (passBoundary s).setNmiPending false) hwf (by decide) (by decide) hpulled h
  · simp only [step, hirq, takeIrq, takeInterrupt] at h
    rw [← nmiPending_of_dueEvent_irq hirq]
    exact exec_rti_of_enter (s := passBoundary s) hwf (by decide) (by decide) hpulled h

/-- Settles O33: the pointer's high byte is read at the successor of the pointer within its page. -/
theorem jumpsComplete : Obligations.JumpsComplete := by
  refine fun w s => ⟨rfl, rfl, rfl, fun hlow => ?_⟩
  rw [← pageSuccessor_eq]
  exact fun hhigh => execJmpInd_of_readable hlow hhigh

/-- Settles O34: the pushes and pulls go to the stack page, which is RAM, so they always answer. -/
theorem subroutineCallsComplete : Obligations.SubroutineCallsComplete := fun w s =>
  ⟨rfl, exec_jsr w s, rfl, exec_rts s⟩

/-- Settles O35: the two bytes pulled are the two pushed, so `PC` is the pushed `PC + 2` plus 1. -/
theorem returnUndoesCall : Obligations.ReturnUndoesCall := by
  intro w s t hwf h
  rw [exec_jsr] at h
  cases h
  obtain ⟨hhigh, hlow⟩ := read_pushedTwo hwf s.cpu.sp (hi (s.cpu.pc + 2#16)) (lo (s.cpu.pc + 2#16))
  refine ⟨_, exec_rts _, ?_, rfl, rfl⟩
  have h1 : s.cpu.sp - 2#8 + 1#8 = s.cpu.sp - 1#8 := by bv_omega
  simp only [h1, BitVec.sub_add_cancel, hhigh, hlow, join_hi_lo, BitVec.add_assoc]
  rfl

/-- Settles O36: the three pulls go to the stack page, which is RAM, so they always answer. -/
theorem returnFromInterruptCompletes : Obligations.ReturnFromInterruptCompletes := fun s =>
  ⟨rfl, exec_rti s⟩

/-- Settles O37: `BRK` is an interrupt entry, which always answers. -/
theorem breakCompletes : Obligations.BreakCompletes := fun s =>
  ⟨rfl, enter_eq _ _ s (by decide) (by decide)⟩

/-- Settles O38: the entry of `BRK` pushes a copy of `P` that the pull turns back into `P`. -/
theorem returnUndoesBreak : Obligations.ReturnUndoesBreak := by
  intro s t hwf hbrk hunused h
  refine exec_rti_of_enter (vector := Config.irqVector) hwf (by decide) (by decide) ?_ h
  rw [(pulledStatus_pushed _).1, pulledStatus_of_brk_unused hbrk hunused]

/-- Settles O39: each of the eight is the branch on the condition of its kind. -/
theorem branchesComplete : Obligations.BranchesComplete := fun _ s =>
  ⟨branches_of_shape (k := .bpl) rfl rfl s, branches_of_shape (k := .bmi) rfl rfl s,
    branches_of_shape (k := .bvc) rfl rfl s, branches_of_shape (k := .bvs) rfl rfl s,
    branches_of_shape (k := .bcc) rfl rfl s, branches_of_shape (k := .bcs) rfl rfl s,
    branches_of_shape (k := .bne) rfl rfl s, branches_of_shape (k := .beq) rfl rfl s⟩

end Sys2Proof.Proofs

/-! # Stack, flag and no-operation instructions (spec/46_stack_flags_system.md R210 to R223) -/

namespace Sys2Proof.Machine
open Sys2Proof.Safety

section
variable {i : Instr} {opcode : Byte} {s : State}

/-! ## What the instructions complete with -/

/-- `PHA` and `PHP`, whichever byte is pushed. -/
theorem push_completesWith {v : Byte} (hexec : exec i s = chain (push v s) fun t => .next (t.advance 1))
    (hbytes : encode i = [opcode]) :
    completesWith i opcode s
      ((s.setRam (Memory.write s.ram (stackCell s.cpu.sp) v)).setReg .sp (s.cpu.sp - 1#8)) := by
  refine ⟨hbytes, ?_⟩
  rw [hexec, push_eq, chain_next]
  rfl

/-- `PLA` and `PLP`, whatever is done with the pulled byte before the advance. -/
theorem pull_completesWith {use : Byte → State → State}
    (hexec : exec i s = chain (pull s) fun r => .next ((use r.1 r.2).advance 1))
    (hbytes : encode i = [opcode]) (hpc : ∀ v t, (use v t).cpu.pc = t.cpu.pc) :
    completesWith i opcode s
      (use (Memory.read s.ram (stackCell (s.cpu.sp + 1#8))) (s.setReg .sp (s.cpu.sp + 1#8))) := by
  refine ⟨hbytes, ?_⟩
  rw [hexec, pull_eq, chain_next, State.advance, hpc]
  rfl

theorem flag_completesWith {k : FlagKind} (hshape : shapeOf i = .flag k) (hbytes : encode i = [opcode]) :
    completesWith i opcode s (s.setP (putFlag s.cpu.p k.flag k.value)) := by
  refine ⟨hbytes, ?_⟩
  rw [exec_eq_run, hshape]
  rfl

/-! ## What they leave unchanged -/

theorem push_frame {v : Byte} {t : State} {n : Nat}
    (h : (chain (push v s) fun u => .next (u.advance 1)) = .next t) :
    (n ≠ stackCell s.cpu.sp → Memory.read t.ram n = Memory.read s.ram n) ∧ t.ppu = s.ppu := by
  rw [push_eq, chain_next] at h
  cases h
  exact ⟨fun hn => Memory.read_write_other _ hn _, rfl⟩

/-- The accumulator forms of the shifts make no bus access (spec/44_shift_inc_dec.md R170). -/
theorem exec_accumulator_frame {k : ShiftKind} {t : State} (hshape : shapeOf i = .accumulator k)
    (h : exec i s = .next t) : t.ram = s.ram ∧ t.ppu = s.ppu := by
  rw [exec_eq_run, hshape] at h
  cases h
  exact ⟨rfl, rfl⟩

end

/-- Two pushes leave every cell but theirs. -/
theorem read_pushedTwo_other {m : Memory} {sp a b : Byte} {n : Nat} (hn : n ∉ [stackCell sp, stackCell (sp - 1#8)]) :
    Memory.read (Memory.write (Memory.write m (stackCell sp) a) (stackCell (sp - 1#8)) b) n = Memory.read m n := by
  obtain ⟨h0, h1⟩ : n ≠ stackCell sp ∧ n ≠ stackCell (sp - 1#8) := by simpa using hn
  rw [Memory.read_write_other _ h1, Memory.read_write_other _ h0]

/-- Three pushes leave every cell but theirs. -/
theorem read_pushedThree_other {m : Memory} {sp a b c : Byte} {n : Nat}
    (hn : n ∉ [stackCell sp, stackCell (sp - 1#8), stackCell (sp - 2#8)]) :
    Memory.read (pushedThree m sp a b c) n = Memory.read m n := by
  obtain ⟨h0, h1, h2⟩ : n ≠ stackCell sp ∧ n ≠ stackCell (sp - 1#8) ∧ n ≠ stackCell (sp - 2#8) := by simpa using hn
  rw [pushedThree, Memory.read_write_other _ h2, read_pushedTwo_other (by simp [h0, h1])]

end Sys2Proof.Machine

/-! # The settled statements about the stack and the flags (spec/46_stack_flags_system.md) -/

namespace Sys2Proof.Proofs
open Sys2Proof Sys2Proof.Machine Sys2Proof.Safety

/-- Settles O40: pushes and pulls go to the stack page, which is RAM, so they always answer. -/
theorem stackInstructionsComplete : Obligations.StackInstructionsComplete := fun _ =>
  ⟨push_completesWith rfl rfl, push_completesWith rfl rfl,
    pull_completesWith (use := fun v t => (t.setReg .a v).setP (setZN v t.cpu.p)) rfl rfl fun _ _ => rfl,
    pull_completesWith (use := fun v t => t.setP (pulledStatus v)) rfl rfl fun _ _ => rfl⟩

/-- Settles O41: each of the seven writes the flag of its kind, and a flag write changes that flag alone. -/
theorem flagInstructionsAndNopComplete : Obligations.FlagInstructionsAndNopComplete :=
  ⟨fun p _ _ => flagsBecome_putFlag (flagsBecome_refl p), fun _ =>
    ⟨flag_completesWith (k := .clc) rfl rfl, flag_completesWith (k := .sec) rfl rfl,
      flag_completesWith (k := .cli) rfl rfl, flag_completesWith (k := .sei) rfl rfl,
      flag_completesWith (k := .cld) rfl rfl, flag_completesWith (k := .sed) rfl rfl,
      flag_completesWith (k := .clv) rfl rfl, rfl, rfl⟩⟩

/-- Settles O60: what is left in RAM is one, two or three writes at the stack cells, and no push reaches a port. -/
theorem pushesWriteOnlyTheStack : Obligations.PushesWriteOnlyTheStack := by
  refine fun w s t n => ⟨?byte, ?call, ?brk, ?accumulator⟩
  case byte => rintro (h | h) <;> exact push_frame h
  case call =>
    intro h
    rw [exec_jsr] at h
    cases h
    exact ⟨read_pushedTwo_other, rfl⟩
  case brk =>
    intro h
    rw [(breakCompletes s).2] at h
    cases h
    exact ⟨read_pushedThree_other, rfl⟩
  case accumulator =>
    rintro (h | h | h | h)
    · exact exec_accumulator_frame (k := .asl) rfl h
    · exact exec_accumulator_frame (k := .lsr) rfl h
    · exact exec_accumulator_frame (k := .rol) rfl h
    · exact exec_accumulator_frame (k := .ror) rfl h

end Sys2Proof.Proofs

/-! # The trace line (spec/47_tracer.md R232 to R257) -/

namespace Sys2Proof

@[simp] theorem Mnemonic.text_length (m : Mnemonic) : m.text.length = 3 := by cases m <;> rfl

end Sys2Proof

namespace Sys2Proof.Machine

/-! ## The widths of the parts -/

@[simp] theorem hex2_length (v : Byte) : (hex2 v).length = 2 := rfl

@[simp] theorem hex4_length (w : Word) : (hex4 w).length = 4 := rfl

@[simp] theorem valueText_length (v : Byte) : (valueText v).length = 5 := rfl

@[simp] theorem registerSuffix_length (h : HookView) : (registerSuffix h).length = 25 := rfl

@[simp] theorem padRight_length (s : List Char) (n : Nat) : (padRight s n).length = max n s.length :=
  List.length_rightpad

@[simp] theorem padLeft_length (s : List Char) (n : Nat) : (padLeft s n).length = max n s.length :=
  List.length_leftpad

theorem memoryText_length_le (h : HookView) (op : Operand) (ea : Word) (v : Byte) :
    (memoryText h op ea v).length ≤ 26 := by
  cases op <;> simp [memoryText]

theorem noneText_length_le (h : HookView) (len : Nat) (b1 b2 : Byte) : (noneText h len b1 b2).length ≤ 7 := by
  unfold noneText
  split_ifs <;> simp [Config.accMarker]

/-- The widest operand text is that of the mode `IndirectY`. -/
theorem operandText_length_le (h : HookView) (e : MetaEntry) : (operandText h e).length ≤ 26 := by
  simp only [operandText]
  split
  · exact memoryText_length_le ..
  · exact (noneText_length_le ..).trans (by decide)

theorem byteDump_length_le (h : HookView) (len : Nat) : (byteDump h len).length ≤ 8 := by
  unfold byteDump
  split_ifs <;> simp

/-- Twenty columns stand before the operand text, so one of at most 27 characters fits the padded width. -/
theorem leftPart_length_le {pc : Word} {dump mnemonic operand : List Char} (hdump : dump.length ≤ 8)
    (hmnemonic : mnemonic.length ≤ 4) (hoperand : operand.length ≤ 27) :
    (leftPart pc dump mnemonic operand).length ≤ Config.tracePad := by
  simp only [leftPart, List.length_append, hex4_length, padRight_length, padLeft_length, max_eq_left hdump,
    max_eq_left hmnemonic, List.length_cons, List.length_nil, Config.tracePad]
  omega

/-! ## Trimming and padding -/

theorem padRight_cons (c : Char) (s : List Char) (n : Nat) : padRight (c :: s) (n + 1) = c :: padRight s n := by
  simp [padRight]

/-- Padding puts back the spaces that trimming took. -/
theorem padRight_rightTrim {s : List Char} {n : Nat} (hs : s.length ≤ n) : padRight (rightTrim s) n = padRight s n := by
  induction s generalizing n with
  | nil => rfl
  | cons c rest ih =>
    obtain ⟨m, rfl⟩ := Nat.exists_eq_add_one.mpr (Nat.zero_lt_of_lt hs)
    rw [padRight_cons, ← ih (Nat.le_of_succ_le_succ hs), rightTrim]
    cases rightTrim rest with
    | cons d more => exact padRight_cons ..
    | nil =>
      by_cases hc : c = ' '
      · simp [hc, padRight, List.replicate_succ]
      · simp [hc, padRight_cons]

/-- R254: a left part of at most 47 characters fills the columns before the suffix as if it had not been trimmed. -/
theorem traceLine_of_length_le {h : HookView} {left : List Char} (hl : left.length ≤ Config.tracePad) :
    traceLine h left = padRight left Config.tracePad ++ [' '] ++ registerSuffix h := by
  rw [traceLine, padRight_rightTrim hl]

/-! ## The line of a view -/

/-- A left part that fits stands in its line with the digits of `PC` first, filled up to column 48, before the suffix. -/
theorem traceLine_columns {h : HookView} {dump mnemonic operand : List Char}
    (hl : (leftPart h.pc dump mnemonic operand).length ≤ Config.tracePad) :
    ∃ rest, (hex4 h.pc ++ rest).length = 48 ∧
      traceLine h (leftPart h.pc dump mnemonic operand) = hex4 h.pc ++ rest ++ registerSuffix h := by
  obtain ⟨rest, hrest⟩ : hex4 h.pc <+: padRight (leftPart h.pc dump mnemonic operand) Config.tracePad ++ [' '] :=
    ⟨_, rfl⟩
  refine ⟨rest, ?_, by rw [traceLine_of_length_le hl, hrest]⟩
  rw [hrest, List.length_append, padRight_length, max_eq_left hl]
  rfl

/-- R234, R254: whether the opcode byte is known or not, the left part fits. -/
theorem trace_columns (h : HookView) :
    ∃ rest, (hex4 h.pc ++ rest).length = 48 ∧ trace h = hex4 h.pc ++ rest ++ registerSuffix h := by
  unfold trace
  cases metaOf h.opcode with
  | none => exact traceLine_columns (leftPart_length_le (by simp) (by decide) (by decide))
  | some e =>
    exact traceLine_columns <| leftPart_length_le (byteDump_length_le ..) (by simp)
      ((operandText_length_le ..).trans (by decide))

/-- R256: the placeholder's left part loses only spaces to the trimming, and the padding puts them back. -/
theorem trace_unknown {h : HookView} (hop : metaOf h.opcode = none) :
    trace h = padRight (leftPart h.pc (hex2 h.opcode) Config.unknownMnemonic []) Config.tracePad ++ [' '] ++
      registerSuffix h := by
  rw [trace, hop]
  exact traceLine_of_length_le (leftPart_length_le (by simp) (by decide) (by decide))

end Sys2Proof.Machine

/-! # The settled statements about the tracer (spec/47_tracer.md) -/

namespace Sys2Proof.Proofs
open Sys2Proof Sys2Proof.Machine Sys2Proof.Safety

/-- Settles O49: the digits of `PC` are 4 characters, the columns up to the suffix 48, the suffix 25. -/
theorem traceLineIsFixedWidth : Obligations.TraceLineIsFixedWidth := by
  intro h
  obtain ⟨rest, hleft, htrace⟩ := trace_columns h
  have hdrop : (trace h).drop 48 = registerSuffix h := by rw [htrace, List.drop_left' hleft]
  refine ⟨?length, ?pc, by rw [hdrop, registerSuffix_length], hdrop⟩
  case length => rw [htrace, List.length_append, hleft, registerSuffix_length]
  case pc => rw [htrace, List.append_assoc, List.take_left' (hex4_length _)]

/-- Settles O50: the left part has no operand text, and the padding runs from the placeholder to the suffix. -/
theorem unknownOpcodeGetsThePlaceholderLine : Obligations.UnknownOpcodeGetsThePlaceholderLine := by
  intro h hop
  rw [trace_unknown (metaOf_eq_none.mpr (mem_unassignedBytes.mp hop))]
  rfl

/-- Settles O51: the tracer is run on the view of each state. -/
theorem sourceLinesAreReproduced : Obligations.SourceLinesAreReproduced := ⟨by rfl, by rfl⟩

end Sys2Proof.Proofs

/-! # The PPU block (spec/48_ppu_vram_controller.md R271 to R293) -/

namespace Sys2Proof.Machine
open Sys2Proof.Safety

/-! ## The latch and the increment (R271 to R274) -/

theorem maskLatch_toNat (w : Word) : (maskLatch w).toNat = w.toNat % 0x4000 := by
  rw [maskLatch, BitVec.toNat_and]
  exact Nat.and_two_pow_sub_one_eq_mod w.toNat 14

section
variable {u : Ppu} (b : Byte)

theorem writeAddressPort_high (h : u.hiNext = true) :
    writeAddressPort b u = { u with addr := maskLatch (join b (lo u.addr)), hiNext := false } := by
  simp [writeAddressPort, h]

theorem writeAddressPort_low (h : u.hiNext = false) :
    writeAddressPort b u = { u with addr := maskLatch (join (hi u.addr) b), hiNext := true } := by
  simp [writeAddressPort, h]

end

/-- Masking the latch between the two writes does not show after the second: the high byte is masked again. -/
theorem maskLatch_join_hi_maskLatch (h l : Byte) (w : Word) :
    (maskLatch (join (hi (maskLatch (join h (lo w)))) l)).toNat = (h.toNat * 256 + l.toNat) % 0x4000 := by
  have := l.isLt
  simp only [maskLatch_toNat, join_toNat, hi_toNat, lo_toNat]
  omega

theorem vramStep_toNat (u : Ppu) : (vramStep u).toNat = if u.ctrl.toNat / 4 % 2 = 1 then 32 else 1 := by
  have hbit : u.ctrl.getLsbD Config.incrementBit = decide (u.ctrl.toNat / 4 % 2 = 1) := Nat.testBit_eq_decide_div_mod_eq
  simp only [vramStep, hbit, decide_eq_true_eq]
  split_ifs <;> rfl

theorem incrementVramAddress_addr_toNat (u : Ppu) :
    (incrementVramAddress u).addr.toNat = (u.addr.toNat + if u.ctrl.toNat / 4 % 2 = 1 then 32 else 1) % 0x4000 := by
  rw [← vramStep_toNat, incrementVramAddress, maskLatch_toNat, BitVec.toNat_add]
  omega

theorem readDataPort_addr_hiNext {k : Session} {u : Ppu} {r : Byte × Ppu} (h : readDataPort k u = some r) :
    r.2.addr = (incrementVramAddress u).addr ∧ r.2.hiNext = u.hiNext := by
  obtain ⟨-, buf, hr⟩ := readDataPort_eq_some h
  rw [hr]
  exact ⟨rfl, rfl⟩

theorem writeDataPort_addr {k : Session} {b : Byte} {u v : Ppu} (h : writeDataPort k b u = some v) :
    v.addr = (incrementVramAddress u).addr := by
  obtain ⟨-, rfl⟩ | ⟨-, rfl⟩ | ⟨-, rfl⟩ := writeDataPort_eq_some h <;> rfl

/-! ## Nametable mirroring (R276 to R282) -/

theorem and_nametableMask_toNat (addr : Word) : (addr &&& 0x0FFF#16).toNat = addr.toNat % 0x1000 := by
  rw [BitVec.toNat_and]
  exact Nat.and_two_pow_sub_one_eq_mod addr.toNat 12

theorem mirrorIndex_vertical (addr : Word) : mirrorIndex .vertical addr = addr.toNat % 0x1000 % 0x800 := by
  simp only [mirrorIndex, and_nametableMask_toNat]
  split_ifs <;> omega

theorem mirrorIndex_horizontal (addr : Word) :
    mirrorIndex .horizontal addr = addr.toNat % 0x1000 / 0x800 * 0x400 + addr.toNat % 0x400 := by
  simp only [mirrorIndex, and_nametableMask_toNat]
  split_ifs <;> omega

section
variable (m : Mirroring) {addr : Word}

theorem mirrorNametableAddress_of_range (hlow : 0x2000 ≤ addr.toNat) (hhigh : addr.toNat ≤ 0x3EFF) :
    mirrorNametableAddress m addr = some (mirrorIndex m addr) :=
  if_pos ⟨hlow, hhigh⟩

theorem mirrorNametableAddress_eq_none (h : addr.toNat < 0x2000 ∨ 0x3EFF < addr.toNat) :
    mirrorNametableAddress m addr = none := by
  refine if_neg fun ⟨hlow, hhigh⟩ => ?_
  simp only [BitVec.le_def, BitVec.toNat_ofNat] at hlow hhigh
  omega

end

/-! ## The regions of the PPU address space (spec/20_memory.md R50) -/

theorem ppuRegion_eq (addr : Word) :
    ppuRegion addr = if addr.toNat ≤ 0x1FFF then .pattern else if addr.toNat ≤ 0x2FFF then .nametable
      else if addr.toNat ≤ 0x3EFF then .reserved else if addr.toNat ≤ 0x3FFF then .palette else .beyond := rfl

section
variable {addr : Word}

theorem ppuRegion_pattern (h : addr.toNat ≤ 0x1FFF) : ppuRegion addr = .pattern := by
  rw [ppuRegion_eq, if_pos h]

theorem ppuRegion_nametable (hlow : 0x2000 ≤ addr.toNat) (hhigh : addr.toNat ≤ 0x2FFF) :
    ppuRegion addr = .nametable := by
  rw [ppuRegion_eq, if_neg (by omega), if_pos hhigh]

theorem ppuRegion_palette (hlow : 0x3F00 ≤ addr.toNat) (hhigh : addr.toNat ≤ 0x3FFF) : ppuRegion addr = .palette := by
  rw [ppuRegion_eq, if_neg (by omega), if_neg (by omega), if_neg (by omega), if_pos hhigh]

theorem paletteIndex_eq (h : 0x3F00 ≤ addr.toNat) : paletteIndex addr = (addr.toNat - 0x3F00) % 32 := by
  have hle : 0x3F00#16 ≤ addr := h
  rw [paletteIndex, BitVec.toNat_sub_of_le hle]
  rfl

end

/-- The latch values that fault, as numbers (R287, R289). -/
theorem latchFaults_iff_range (u : Ppu) :
    latchFaults u = true ↔ (0x3000 ≤ u.addr.toNat ∧ u.addr.toNat ≤ 0x3EFF) ∨ 0x3FFF < u.addr.toNat := by
  simp [latchFaults, BitVec.le_def, BitVec.lt_def]

/-! ## The data port, range by range (R284 to R291) -/

section
variable (k : Session) {u : Ppu}

theorem readDataPort_buffered (h : u.addr.toNat ≤ 0x2FFF) :
    readDataPort k u =
      some (u.buf, { u with addr := (incrementVramAddress u).addr, buf := ppuCell k u u.addr }) := by
  obtain hp | hn : u.addr.toNat ≤ 0x1FFF ∨ 0x2000 ≤ u.addr.toNat := by omega
  · simp only [readDataPort, ppuRegion_pattern hp]
    rfl
  · simp only [readDataPort, ppuRegion_nametable hn h]
    rfl

theorem readDataPort_palette (hlow : 0x3F00 ≤ u.addr.toNat) (hhigh : u.addr.toNat ≤ 0x3FFF) :
    readDataPort k u = some (ppuCell k u u.addr, incrementVramAddress u) := by
  simp only [readDataPort, ppuRegion_palette hlow hhigh]

theorem ppuCell_pattern (h : u.addr.toNat ≤ 0x1FFF) : ppuCell k u u.addr = Memory.read k.chr u.addr.toNat := by
  simp only [ppuCell, ppuRegion_pattern h]

theorem ppuCell_nametable (hlow : 0x2000 ≤ u.addr.toNat) (hhigh : u.addr.toNat ≤ 0x2FFF) :
    ppuCell k u u.addr = Memory.read u.vram (mirrorIndex k.mirroring u.addr) := by
  simp only [ppuCell, ppuRegion_nametable hlow hhigh]

theorem ppuCell_palette (hlow : 0x3F00 ≤ u.addr.toNat) (hhigh : u.addr.toNat ≤ 0x3FFF) :
    ppuCell k u u.addr = Memory.read u.palette ((u.addr.toNat - 0x3F00) % 32) := by
  simp only [ppuCell, ppuRegion_palette hlow hhigh, paletteIndex_eq hlow]

variable (b : Byte)

theorem writeDataPort_pattern (h : u.addr.toNat ≤ 0x1FFF) :
    writeDataPort k b u = some { u with addr := (incrementVramAddress u).addr } := by
  simp only [writeDataPort, ppuRegion_pattern h]
  rfl

theorem writeDataPort_nametable (hlow : 0x2000 ≤ u.addr.toNat) (hhigh : u.addr.toNat ≤ 0x2FFF) :
    writeDataPort k b u =
      some { u with
        addr := (incrementVramAddress u).addr
        vram := Memory.write u.vram (mirrorIndex k.mirroring u.addr) b } := by
  simp only [writeDataPort, ppuRegion_nametable hlow hhigh]
  rfl

theorem writeDataPort_palette (hlow : 0x3F00 ≤ u.addr.toNat) (hhigh : u.addr.toNat ≤ 0x3FFF) :
    writeDataPort k b u =
      some { u with
        addr := (incrementVramAddress u).addr
        palette := Memory.write u.palette ((u.addr.toNat - 0x3F00) % 32) b } := by
  simp only [writeDataPort, ppuRegion_palette hlow hhigh, paletteIndex_eq hlow]
  rfl

end

/-! ## What lies between two buffered reads (R293) -/

/-- No port write and no palette read touches the buffer. -/
theorem portAccess_buf {k : Session} {u v : Ppu} {c : PortAccess} (h : portAccess k u c = some v) : v.buf = u.buf := by
  cases c with
  | address b | control b =>
    cases h
    rfl
  | write b => exact (writeDataPort_registers h).1
  | paletteRead =>
    obtain ⟨hlow, h⟩ := Option.ite_none_right_eq_some.mp h
    obtain ⟨r, hr, rfl⟩ := Option.map_eq_some_iff.mp h
    have hanswers : ¬latchFaults u = true := by
      rw [← readDataPort_eq_none k, hr]
      nofun
    rw [latchFaults_iff_range] at hanswers
    rw [readDataPort_palette k hlow (by omega)] at hr
    cases hr
    rfl

theorem portAccesses_buf {k : Session} {cs : List PortAccess} {u v : Ppu} (h : portAccesses k u cs = some v) :
    v.buf = u.buf := by
  induction cs generalizing u with
  | nil =>
    cases h
    rfl
  | cons c rest ih =>
    obtain ⟨w, hw, h⟩ := Option.bind_eq_some_iff.mp h
    rw [ih h, portAccess_buf hw]

/-- A buffered read returns what the buffer held before the accesses that lead to it. -/
theorem buffered_read_of_portAccesses {k : Session} {cs : List PortAccess} {u v : Ppu} {r : Byte × Ppu}
    (hcs : portAccesses k u cs = some v) (hv : v.addr.toNat ≤ 0x2FFF) (hr : readDataPort k v = some r) :
    r.1 = u.buf := by
  rw [readDataPort_buffered k hv] at hr
  cases hr
  exact portAccesses_buf hcs

end Sys2Proof.Machine

/-! # The settled statements about the PPU block (spec/48_ppu_vram_controller.md) -/

namespace Sys2Proof.Proofs
open Sys2Proof Sys2Proof.Machine Sys2Proof.Safety

/-- Settles O42: the latch is the masked word of the byte written and the byte kept; the second write of a pair masks
again what the first one masked. -/
theorem addressPortBuildsTheLatch : Obligations.AddressPortBuildsTheLatch := by
  intro u b l
  refine ⟨fun hhigh => ⟨_, writeAddressPort_high b hhigh, ?high⟩, fun hlow => ⟨_, writeAddressPort_low b hlow, ?low⟩,
    fun hhigh => ?pair⟩
  case high => rw [maskLatch_toNat, join_toNat, lo_toNat]
  case low => rw [maskLatch_toNat, join_toNat, hi_toNat]
  case pair =>
    rw [writeAddressPort_high b hhigh]
    exact ⟨_, writeAddressPort_low l rfl, maskLatch_join_hi_maskLatch b l u.addr⟩

/-- Settles O43: the increment is the step added and masked, and every data-port access that answers ends with it. -/
theorem controlPortSelectsTheIncrement : Obligations.ControlPortSelectsTheIncrement := fun u _ =>
  ⟨rfl, _, rfl, incrementVramAddress_addr_toNat u, fun _ _ =>
    ⟨fun _ => readDataPort_addr_hiNext, fun _ hq => ⟨writeDataPort_addr hq, (writeDataPort_registers hq).2.2⟩⟩⟩

/-- Settles O44: in the range the index is `mirrorIndex`, whose subtractions are the two remainders. -/
theorem mirroringFoldsTheNametables : Obligations.MirroringFoldsTheNametables := by
  intro m addr
  refine ⟨mirrorNametableAddress_eq_none m, fun hlow hhigh =>
    ⟨_, mirrorNametableAddress_of_range m hlow hhigh, mirrorIndex_lt m addr, ?vertical, ?horizontal⟩⟩
  case vertical =>
    rintro rfl
    exact mirrorIndex_vertical addr
  case horizontal =>
    rintro rfl
    exact mirrorIndex_horizontal addr

/-- Settles O45: below 0x3000 every read is buffered, and the buffer is loaded from the cell of the range. -/
theorem dataPortReadFollowsTheRange : Obligations.DataPortReadFollowsTheRange := by
  intro k u
  refine ⟨fun hp => ?pattern, fun hlow hhigh => ⟨_, mirrorNametableAddress_of_range _ hlow (by omega), ?nametable⟩,
    fun hlow hhigh => ?reserved, fun hlow hhigh => ?palette, fun hbeyond => ?beyond⟩
  case pattern => rw [readDataPort_buffered k (by omega), ppuCell_pattern k hp]
  case nametable => rw [readDataPort_buffered k hhigh, ppuCell_nametable k hlow hhigh]
  case reserved => exact (readDataPort_eq_none k u).mpr ((latchFaults_iff_range u).mpr (.inl ⟨hlow, hhigh⟩))
  case palette =>
    rw [readDataPort_palette k hlow hhigh, ppuCell_palette k hlow hhigh]
    rfl
  case beyond => exact (readDataPort_eq_none k u).mpr ((latchFaults_iff_range u).mpr (.inr hbeyond))

/-- Settles O46: the region of the latch value decides what is stored; the two ranges without an answer are the latch
values that fault. -/
theorem dataPortWriteFollowsTheRange : Obligations.DataPortWriteFollowsTheRange := fun k u b =>
  ⟨writeDataPort_pattern k b,
    fun hlow hhigh =>
      ⟨_, mirrorNametableAddress_of_range _ hlow (by omega), writeDataPort_nametable k b hlow hhigh⟩,
    fun hlow hhigh => (writeDataPort_eq_none k b u).mpr ((latchFaults_iff_range u).mpr (.inl ⟨hlow, hhigh⟩)),
    writeDataPort_palette k b,
    fun hbeyond => (writeDataPort_eq_none k b u).mpr ((latchFaults_iff_range u).mpr (.inr hbeyond))⟩

/-- Settles O47: where the latch faults, neither operation of the port answers, and `Peek` shows 0x00. -/
theorem reservedAccessFaultsUnchanged : Obligations.ReservedAccessFaultsUnchanged := by
  intro s a v hroute hlatch
  rw [← latchFaults_iff_range] at hlatch
  obtain ⟨hpeek, -, hread, -, hwrite⟩ := bus_dataPort v hroute
  exact ⟨hread ((readDataPort_eq_none ..).mpr hlatch), hwrite ((writeDataPort_eq_none ..).mpr hlatch),
    hpeek.trans (peekDataPort_of_latchFaults _ hlatch)⟩

/-- Settles O48: the earlier read loads the buffer with its cell, and nothing up to the later read touches it. -/
theorem bufferedReadLagsByOne : Obligations.BufferedReadLagsByOne := by
  intro k cs
  refine ⟨fun u u1 u2 u3 r1 r2 hu hr1 hcs hu2 hr2 => ?_, fun u2 u3 r hcs hu2 hr =>
    buffered_read_of_portAccesses hcs hu2 hr⟩
  have hloaded : r2 = ppuCell k u u.addr := by
    rw [readDataPort_buffered k hu] at hr1
    cases hr1
    exact buffered_read_of_portAccesses hcs hu2 hr2
  refine ⟨fun hp => hloaded.trans (ppuCell_pattern k hp), fun n hlow hn => ?_⟩
  rw [mirrorNametableAddress_of_range _ hlow (by omega)] at hn
  cases hn
  exact hloaded.trans (ppuCell_nametable k hlow hu)

end Sys2Proof.Proofs

/-! # Interrupts and reset (spec/60_exceptions.md R314 to R323, spec/70_reset_and_hazards.md R340 to R343) -/

namespace Sys2Proof.Machine
open Sys2Proof.Safety

/-! ## What is due at a boundary (R321) -/

section
variable {s : State}

theorem dueEvent_of_reset (h : s.boundary.reset = true) : dueEvent s = .reset := if_pos h

theorem dueEvent_of_nmi (hreset : s.boundary.reset = false)
    (hnmi : s.cpu.nmiPending = true ∨ s.boundary.nmi = true) : dueEvent s = .nmi := by
  simp [dueEvent, hreset, hnmi]

theorem dueEvent_of_irq (hinputs : s.boundary = { reset := false, nmi := false, irq := true })
    (hlatch : s.cpu.nmiPending = false) (hmask : s.flag .interruptDisable = false) : dueEvent s = .irq := by
  simp [dueEvent, hinputs, hlatch, hmask]

theorem nmiPending_of_dueEvent_instruction (h : dueEvent s = .instruction) : s.cpu.nmiPending = false := by
  cases hreset : s.boundary.reset with
  | true =>
    rw [dueEvent_of_reset hreset] at h
    cases h
  | false =>
    rw [← Bool.not_eq_true]
    intro hlatch
    rw [dueEvent_of_nmi hreset (.inl hlatch)] at h
    cases h

/-- R316: with `P.I` set, and neither a reset nor an edge of NMI, only the latch decides what is due. -/
theorem dueEvent_of_irq_masked (hreset : s.boundary.reset = false) (hnmi : s.boundary.nmi = false)
    (hmask : s.flag .interruptDisable = true) :
    dueEvent s = if s.cpu.nmiPending then .nmi else .instruction := by
  simp [dueEvent, hreset, hnmi, hmask]

theorem hookCall_eq_none (h : dueEvent s ≠ .instruction) : hookCall s = none := by
  unfold hookCall
  cases hdue : dueEvent s with
  | reset | nmi | irq => rfl
  | instruction => exact absurd hdue h

/-! ## What the step does then (R318, R340) -/

theorem hostReset_eq (s : State) :
    hostReset s = .next { s with cpu := Cpu.atReset (peek16 s Config.resetVector), ppu := Ppu.atReset } := by
  rw [hostReset, memRead16_high _ (by decide) (by decide), chain_next]

theorem step_of_reset (h : dueEvent s = .reset) :
    step s = .next
      { cpu := Cpu.atReset (peek16 s Config.resetVector), ppu := Ppu.atReset, ram := s.ram, session := s.session,
        inputs := s.inputs.tail } := by
  simp only [step, h]
  exact hostReset_eq (passBoundary s)

theorem takeInterrupt_eq (s : State) {vector : Word} (hhigh : 0x8000 ≤ vector.toNat) (hlast : vector.toNat < 0xFFFF) :
    takeInterrupt vector s = .next
      { s with
        cpu := { s.cpu with
          sp := s.cpu.sp - 3#8, pc := peek16 s vector, p := putFlag s.cpu.p .interruptDisable true }
        ram := pushedThree s.ram s.cpu.sp (hi s.cpu.pc) (lo s.cpu.pc) (pushedByInterrupt s.cpu.p) } :=
  enter_eq _ _ s hhigh hlast

theorem takeInterrupt_nmiPending {vector : Word} {t : State} (h : takeInterrupt vector s = .next t) :
    t.cpu.nmiPending = s.cpu.nmiPending :=
  (takeInterrupt_runs h).restKept.1

end

/-! ## The reset state (R340, R343) -/

/-- Every memory of the reset state is empty. -/
theorem State.reset_legal : Legal State.reset where
  latch := by decide
  brk := by decide
  unused := by decide
  ram := ⟨rfl, rfl⟩
  vram := ⟨rfl, rfl⟩
  palette := ⟨rfl, rfl⟩
  oam := ⟨rfl, rfl⟩
  chr := ⟨rfl, rfl⟩
  prg := ⟨rfl, rfl⟩

/-- The reset vector of the empty cartridge reads 0x0000 (log entry 2). -/
theorem powerOn_empty : powerOn Session.empty [] = .next State.reset := by
  rw [powerOn, hostReset_eq]
  rfl

end Sys2Proof.Machine

/-! # The settled statements about interrupts and reset (spec/60_exceptions.md, spec/70_reset_and_hazards.md) -/

namespace Sys2Proof.Proofs
open Sys2Proof Sys2Proof.Machine Sys2Proof.Safety

/-- Settles O7: each event is due by the priority of R321 and is one interrupt entry; an NMI clears the latch first. -/
theorem interruptsAreTaken : Obligations.InterruptsAreTaken := by
  refine ⟨fun s hreset hpending => ?nmi, fun s hinputs hlatch hmask => ?irq⟩
  case nmi =>
    have hdue := dueEvent_of_nmi hreset hpending
    refine ⟨hookCall_eq_none (by simp [hdue]), ?_⟩
    simp only [step, hdue, takeNmi]
    exact takeInterrupt_eq _ (by decide) (by decide)
  case irq =>
    have hdue := dueEvent_of_irq hinputs hlatch hmask
    refine ⟨hookCall_eq_none (by simp [hdue]), ?_⟩
    simp only [step, hdue, takeIrq]
    exact takeInterrupt_eq _ (by decide) (by decide)

/-- Settles O9: the same event is due with the IRQ input and without it, and the boundary passes the same way. -/
theorem irqIsMaskedByInterruptDisable : Obligations.IrqIsMaskedByInterruptDisable := by
  intro s hreset hnmi hmask
  have hdue : dueEvent s = dueEvent (s.drive (Boundary.idle :: s.inputs.tail)) :=
    (dueEvent_of_irq_masked hreset hnmi hmask).trans
      (dueEvent_of_irq_masked (s := s.drive (Boundary.idle :: s.inputs.tail)) rfl rfl hmask).symm
  have hpass : passBoundary s = passBoundary (s.drive (Boundary.idle :: s.inputs.tail)) := rfl
  unfold step
  rw [hdue, hpass]
  rfl

/-- Settles O11: a reset and an NMI clear the latch; an IRQ or an instruction is due only with the latch clear, and no
run writes it. -/
theorem stepClearsTheNmiLatch : Obligations.StepClearsTheNmiLatch := by
  intro s t h
  obtain ⟨-, rfl⟩ | ⟨-, hn⟩ | ⟨hdue, hi⟩ | ⟨hdue, i, q, hq, hx⟩ := step_eq_next h
  · rfl
  · exact takeInterrupt_nmiPending hn
  · have hkept : t.cpu.nmiPending = s.cpu.nmiPending := takeInterrupt_nmiPending (s := passBoundary s) hi
    exact hkept.trans (nmiPending_of_dueEvent_irq hdue)
  · have hkept : t.cpu.nmiPending = s.cpu.nmiPending := ((Runs.ofReads hq).trans (exec_runs hx)).restKept.1
    exact hkept.trans (nmiPending_of_dueEvent_instruction hdue)

/-- Settles O10: a reset request comes first at its boundary. -/
theorem resetRequestResetsTheMachine : Obligations.ResetRequestResetsTheMachine := by
  intro s h
  have hdue := dueEvent_of_reset h
  exact ⟨step_of_reset hdue, hookCall_eq_none (by simp [hdue])⟩

/-- Settles O53: the values of the table are those that `State.reset` is defined with. -/
theorem resetStateIsLegal : Obligations.ResetStateIsLegal :=
  ⟨State.reset_legal, powerOn_empty, rfl, rfl⟩

end Sys2Proof.Proofs
